-- ==== Sys2Proof/Word.lean ====
section
/-! DEFINITION. The plain data the block handles: duty values, index values, the three channels, a
triple with one entry per channel, a ROM row and the six-row table (00_scope.md R12, R13, R14;
20_memory.md R55). Widths are parameters (R11), so a duty and an index are natural numbers kept
below the parameter's power of two by the invariant of Safety.lean; see log entry 1. -/

namespace Sys2Proof

/-- A Duty Value: "an unsigned integer in `[0, max_duty]`" (R21), `DUTY_W` bits wide. -/
abbrev Duty := Nat

/-- A value of the step counter, `IDX_W` bits wide (R24). -/
abbrev Index := Nat

/-- The three channels, in the source's fixed order (R14). -/
inductive Channel where
  | u
  | v
  | w
  deriving DecidableEq, Repr

/-- One value for each channel: the ordered triple `(x_u, x_v, x_w)` (R55). -/
structure PerChannel (α : Type) where
  u : α
  v : α
  w : α
  deriving DecidableEq, Repr

/-- A Commutation Step, a ROM row: "an ordered triple `(duty_u, duty_v, duty_w)`" (R55). -/
abbrev Row := PerChannel Duty

/-- A Commutation Table: "a fixed-size ordered sequence of exactly 6 Commutation Steps, indexed
0..5" (R12, R101). -/
structure Table where
  row0 : Row
  row1 : Row
  row2 : Row
  row3 : Row
  row4 : Row
  row5 : Row
  deriving DecidableEq, Repr

end Sys2Proof
end

