-- ==== Sys2Proof/Config.lean ====
section
/-! DEFINITION. The implementation parameters of 00_scope.md R11 that no operation writes: `DUTY_W`,
`IDX_W`, `TRAP_TABLE` and `CH_RESET`. The machine carries them as constant data in its state
(`State.params`), so that a statement for every state is a statement for every parameter value; see
log entry 2. `TICK_HZ` is left out: "no rule depends on it" (log entry 14). -/

namespace Sys2Proof

/-- `CH_RESET`: the value of the six channel registers after reset and before the first tick (R11,
R38). -/
structure ChReset where
  duty : PerChannel Duty
  en   : PerChannel Bool
  deriving DecidableEq, Repr

/-- The parameters of R11. `trap` gives the OPEN parameter `TRAP_TABLE`, a function from `MAX_DUTY`
to six rows, as a finite list: a listed `MAX_DUTY` has the listed table, every other one has the
default table of R113 to R118 (log entry 3). -/
structure Params where
  dutyW   : Nat
  idxW    : Nat
  trap    : List (Nat × Table)
  chReset : ChReset
  deriving DecidableEq, Repr

/-- The values R11 gives "for this hardware": 16 and 32 bits, the default `TRAP_TABLE`, and the
recommended `CH_RESET` (all duty 0, all disabled; DESIGN CHOICE, unsafe, log entry 4). -/
def Params.standard : Params where
  dutyW := 16
  idxW := 32
  trap := []
  chReset := ⟨⟨0, 0, 0⟩, ⟨false, false, false⟩⟩

end Sys2Proof
end

