-- ==== Sys2Proof/Syntax.lean ====
section
/-! DEFINITION. The operations of the block, one constructor for each of the 27 rows of
spec/opcode_table.json, with the operands their words carry (30_encoding.md R75 to R89); the six word
formats; the outbound events of the trace (R84); and the inputs the outside can give (R92). -/

namespace Sys2Proof

/-- The operations. An operand stands for every bit of the word that the table's row leaves free. -/
inductive Instr where
  /-- `RESET`, format `IN`, word `1x`: `tick_req` is the free bit (R76, R230). -/
  | reset (tickReq : Bool)
  /-- `TICK`, format `IN`, word `01` (R131). -/
  | tick
  /-- `IDLE`, format `IN`, word `00` (R132). -/
  | idle
  /-- `BUILD.TP`, format `CFG`, word `00` (R106). -/
  | buildTp
  /-- `BUILD.TZ`, format `CFG`, word `01` (R106). -/
  | buildTz
  /-- `BUILD.BADPAT`, format `CFG`, word `1x`: `low` is the free bit (R106, R192). -/
  | buildBadpat (low : Bool)
  | tpStep0
  | tpStep1
  | tpStep2
  | tpStep3
  | tpStep4
  | tpStep5
  | tzStep0
  | tzStep1
  | tzStep2
  | tzStep3
  | tzStep4
  | tzStep5
  /-- `ROM.RSVD`: every `ROMSEL` word that selects no row (R124). -/
  | romRsvd (pattern : Fin 4) (addr : Fin 8)
  /-- `ROM_READ`, micro-step 1 (R119). -/
  | romRead
  /-- `INC`, micro-step 8 (R135). -/
  | inc
  /-- `SET_DUTY c, v` (R176). -/
  | setDuty (c : Channel) (v : Duty)
  /-- `ENABLE c` (R161). -/
  | enable (c : Channel)
  /-- `DISABLE c` (R162). -/
  | disable (c : Channel)
  /-- `ACK` (R136). -/
  | ack
  /-- `EVT.RSVD`: every `EVT` word no other `EVT` row matches (R89). -/
  | evtRsvd (op ch : Fin 4) (val : Duty)
  /-- `USTEP.RSVD`: `tick_pos` 10 to 15 (R82, R89). -/
  | ustepRsvd (pos : Fin 16)
  deriving DecidableEq, Repr

/-- The six formats of R75; `inp` is the spec's `IN`. A word of one format and a word of another can
be the same number, so a word is always held with its format. -/
inductive Format where
  | inp
  | cfg
  | romsel
  | row
  | ustep
  | evt
  deriving DecidableEq, Repr

/-- A word of a format, its bits numbered from the least significant (R75). -/
structure OpWord where
  fmt  : Format
  bits : Nat
  deriving DecidableEq, Repr

/-- One outbound micro-operation of the event trace (R81, R84). -/
inductive Event where
  | setDuty (c : Channel) (v : Duty)
  | enable (c : Channel)
  | disable (c : Channel)
  | ack
  deriving DecidableEq, Repr

/-- What the outside gives the machine, one item a step: the input events of a program (R92) and the
choice of the agent that moves next (`turn`: the sequencer performs its next micro-operation). -/
inductive Input where
  /-- The sequencer moves by one micro-step (R134). -/
  | turn
  /-- `EXPIRE`: the timer's period expiry (R92, R199). -/
  | expire
  /-- An `IN` word is presented: `RESET`, `TICK` or `IDLE` (R76). -/
  | inWord (rst tickReq : Bool)
  /-- `BUILD max_duty, pattern`: a construction with these constants (R92, R100). -/
  | build (maxDuty : Nat) (pattern : Fin 4)
  deriving DecidableEq, Repr

end Sys2Proof
end

