-- ==== Sys2Proof/WellFormed.lean ====
section
/-! DEFINITION. Which terms of `Instr` are operations of the block: a duty value fits its field
(30_encoding.md R87), and a reserved-word constructor holds a word that is in fact reserved (R82, R89,
40_table_rom.md R124). Every other constructor has no ill-formed term. -/

namespace Sys2Proof

/-- A `ROMSEL` word selects no row: address 6 or 7, or pattern 2 or 3 (R124). -/
def romselReserved (pattern : Fin 4) (addr : Fin 8) : Bool :=
  decide (2 ≤ pattern.val) || decide (6 ≤ addr.val)

/-- An `EVT` word is reserved (R89): `op = 0b11` with `ch != 3`, `op != 0b11` with `ch = 3`, or `op`
other than 0 with `val != 0`. -/
def evtReserved (op ch : Fin 4) (val : Duty) : Bool :=
  (op == 3) != (ch == 3) || (op != 0 && val != 0)

/-- A `tick_pos` value names no micro-operation and is not idle (R82). -/
def ustepReserved (pos : Fin 16) : Bool :=
  decide (10 ≤ pos.val)

/-- Well-formedness for a duty width `W` (the parameter `DUTY_W`). -/
def Instr.wellFormed (W : Nat) : Instr → Bool
  | .setDuty _ v => decide (v < 2 ^ W)
  | .romRsvd p a => romselReserved p a
  | .evtRsvd op ch v => decide (v < 2 ^ W) && evtReserved op ch v
  | .ustepRsvd p => ustepReserved p
  | .reset _ | .tick | .idle | .buildTp | .buildTz | .buildBadpat _ => true
  | .tpStep0 | .tpStep1 | .tpStep2 | .tpStep3 | .tpStep4 | .tpStep5 => true
  | .tzStep0 | .tzStep1 | .tzStep2 | .tzStep3 | .tzStep4 | .tzStep5 => true
  | .romRead | .inc | .enable _ | .disable _ | .ack => true

end Sys2Proof
end

