-- ==== Sys2Proof/Decode.lean ====
section
/-! DEFINITION. The decoder, total on any number in any format and rejecting by name, the
sequencer's reading of `tick_pos` (30_encoding.md R82), and the encoder, both written from R75 to R83;
the packing of a ROM row and of an event (R54, R79, R81); and the host's `decodeTableWord`. -/

namespace Sys2Proof

/-- Why a word is no operation. -/
inductive DecodeError where
  /-- The number does not fit the format's width (R75). -/
  | tooWide (f : Format)
  /-- A `ROW` word is data, "one ROM row" (R75); "the complete list of operations" has none of it (R88). -/
  | rowIsData
  deriving DecidableEq, Repr

/-- What the decoder answers. -/
inductive Decoded where
  | ok (i : Instr)
  /-- A `USTEP` word that no `USTEP` row of the table matches and that is not reserved: the micro-operation
  that `tick_pos` names (R82), which for 2 to 7 and 9 is an `EVT` operation and takes its operand from the
  row read, and for 0 is none (R88). `microOp` reads it. -/
  | atPosition (pos : Fin 16)
  | rejected (e : DecodeError)
  deriving DecidableEq, Repr

/-- The operation a decoding answers, if it answers one. -/
def Decoded.instr? : Decoded → Option Instr
  | .ok i => some i
  | .atPosition _ => none
  | .rejected _ => none

/-- The width in bits of a format, for a duty width `W` (R75). -/
def Format.width (W : Nat) : Format → Nat
  | .inp => 2
  | .cfg => 2
  | .romsel => 5
  | .row => 3 * W
  | .ustep => 4
  | .evt => W + 4

/-- The slice of `n` bits of `w` from bit `lo` up (R13). -/
def bitField (w lo n : Nat) : Nat :=
  w / 2 ^ lo % 2 ^ n

/-- The channel number (R80). -/
def Channel.code : Channel → Nat
  | .u => 0
  | .v => 1
  | .w => 2

/-- The channel a two-bit `ch` field names; 3 names none (R80). -/
def channelOf : Nat → Option Channel
  | 0 => some .u
  | 1 => some .v
  | 2 => some .w
  | _ => none

/-- Format `IN`, two bits (R76). -/
def decodeIn : Nat → Instr
  | 0 => .idle
  | 1 => .tick
  | 2 => .reset false
  | _ => .reset true

/-- Format `CFG`, two bits (R77, R106). -/
def decodeCfg : Nat → Instr
  | 0 => .buildTp
  | 1 => .buildTz
  | 2 => .buildBadpat false
  | _ => .buildBadpat true

/-- Format `ROMSEL`, five bits, `pattern[4:3]`, `addr[2:0]` (R78, R124). -/
def decodeRomsel (b : Nat) : Instr :=
  match b with
  | 0 => .tpStep0
  | 1 => .tpStep1
  | 2 => .tpStep2
  | 3 => .tpStep3
  | 4 => .tpStep4
  | 5 => .tpStep5
  | 8 => .tzStep0
  | 9 => .tzStep1
  | 10 => .tzStep2
  | 11 => .tzStep3
  | 12 => .tzStep4
  | 13 => .tzStep5
  | n => .romRsvd (Fin.ofNat 4 (bitField n 3 2)) (Fin.ofNat 8 (bitField n 0 3))

/-- Format `USTEP`, four bits (R82, R88). -/
def decodeUstep (b : Nat) : Decoded :=
  match b with
  | 1 => .ok .romRead
  | 0 | 2 | 3 | 4 | 5 | 6 | 7 | 9 => .atPosition (Fin.ofNat 16 b)
  | 8 => .ok .inc
  | _ => .ok (.ustepRsvd (Fin.ofNat 16 b))

/-- An `EVT` word from its three fields (R81, R89). -/
def decodeEvtFields (op ch : Nat) (val : Duty) : Instr :=
  match op, channelOf ch with
  | 0, some c => .setDuty c val
  | 1, some c => if val = 0 then .enable c else .evtRsvd 1 (Fin.ofNat 4 ch) val
  | 2, some c => if val = 0 then .disable c else .evtRsvd 2 (Fin.ofNat 4 ch) val
  | 3, none => if val = 0 then .ack else .evtRsvd 3 3 val
  | _, _ => .evtRsvd (Fin.ofNat 4 op) (Fin.ofNat 4 ch) val

/-- Format `EVT`, `op[W+3:W+2]`, `ch[W+1:W]`, `val[W-1:0]` (R81). -/
def decodeEvt (W b : Nat) : Instr :=
  decodeEvtFields (bitField b (W + 2) 2) (bitField b W 2) (bitField b 0 W)

/-- The decoder: what a word of a format means, for a duty width `W`. -/
def decode (W : Nat) (w : OpWord) : Decoded :=
  if w.bits < 2 ^ w.fmt.width W then
    match w.fmt with
    | .inp => .ok (decodeIn w.bits)
    | .cfg => .ok (decodeCfg w.bits)
    | .romsel => .ok (decodeRomsel w.bits)
    | .row => .rejected .rowIsData
    | .ustep => decodeUstep w.bits
    | .evt => .ok (decodeEvt W w.bits)
  else .rejected (.tooWide w.fmt)

/-- The field of channel `c` of a triple: the mux's selection of one value from the row (R55, R175). -/
def PerChannel.get {α : Type} (c : Channel) (x : PerChannel α) : α :=
  match c with
  | .u => x.u
  | .v => x.v
  | .w => x.w

/-- The level write the decoder issues for duty `d`: `ENABLE c` if it is nonzero, else `DISABLE c`
(R82, R160). -/
def levelOp (c : Channel) (d : Duty) : Instr :=
  if d = 0 then .disable c else .enable c

/-- The micro-operation the sequencer performs at `tick_pos`, given the row it has read (R82).
Position 0 is idle; 10 to 15 are reserved. -/
def microOp (row : Row) (pos : Fin 16) : Instr :=
  match pos.val with
  | 0 => .idle
  | 1 => .romRead
  | 2 => .setDuty .u (row.get .u)
  | 3 => levelOp .u (row.get .u)
  | 4 => .setDuty .v (row.get .v)
  | 5 => levelOp .v (row.get .v)
  | 6 => .setDuty .w (row.get .w)
  | 7 => levelOp .w (row.get .w)
  | 8 => .inc
  | 9 => .ack
  | _ => .ustepRsvd pos

/-- The `ROMSEL` word of a pattern and a row address (R78): `pattern[4:3]`, `addr[2:0]`. -/
def romselWord (pattern : Fin 4) (addr : Fin 8) : OpWord :=
  ⟨.romsel, pattern.val * 8 + addr.val⟩

/-- The `IN` word of the two input bits (R76): `rst[1]`, `tick_req[0]`. -/
def inWord (rst tickReq : Bool) : OpWord :=
  ⟨.inp, rst.toNat * 2 + tickReq.toNat⟩

/-- An `EVT` word from its fields (R81): `op`, `ch`, `val` from the most significant bits down. -/
def evtWord (W op ch val : Nat) : OpWord :=
  ⟨.evt, op * 2 ^ (W + 2) + ch * 2 ^ W + val⟩

/-- The encoder: the word of a well-formed operation, for a duty width `W` (R75 to R83). -/
def encode (W : Nat) : Instr → OpWord
  | .reset tickReq => inWord true tickReq
  | .tick => inWord false true
  | .idle => inWord false false
  | .buildTp => ⟨.cfg, 0⟩
  | .buildTz => ⟨.cfg, 1⟩
  | .buildBadpat low => ⟨.cfg, 2 + low.toNat⟩
  | .tpStep0 => romselWord 0 0
  | .tpStep1 => romselWord 0 1
  | .tpStep2 => romselWord 0 2
  | .tpStep3 => romselWord 0 3
  | .tpStep4 => romselWord 0 4
  | .tpStep5 => romselWord 0 5
  | .tzStep0 => romselWord 1 0
  | .tzStep1 => romselWord 1 1
  | .tzStep2 => romselWord 1 2
  | .tzStep3 => romselWord 1 3
  | .tzStep4 => romselWord 1 4
  | .tzStep5 => romselWord 1 5
  | .romRsvd p a => romselWord p a
  | .romRead => ⟨.ustep, 1⟩
  | .inc => ⟨.ustep, 8⟩
  | .setDuty c v => evtWord W 0 c.code v
  | .enable c => evtWord W 1 c.code 0
  | .disable c => evtWord W 2 c.code 0
  | .ack => evtWord W 3 3 0
  | .evtRsvd op ch v => evtWord W op ch v
  | .ustepRsvd p => ⟨.ustep, p⟩

/-- The `mask` of an operation's row of the opcode table, at `DUTY_W = 16` (R88); the reserved rows have
mask 0. -/
def Instr.tableMask : Instr → Nat
  | .reset _ | .buildBadpat _ => 0x2
  | .tick | .idle | .buildTp | .buildTz => 0x3
  | .tpStep0 | .tpStep1 | .tpStep2 | .tpStep3 | .tpStep4 | .tpStep5 => 0x1F
  | .tzStep0 | .tzStep1 | .tzStep2 | .tzStep3 | .tzStep4 | .tzStep5 => 0x1F
  | .romRead | .inc => 0xF
  | .setDuty _ _ => 0xC0000
  | .enable _ | .disable _ => 0xCFFFF
  | .ack => 0xFFFFF
  | .romRsvd _ _ | .evtRsvd _ _ _ | .ustepRsvd _ => 0

/-- The `match` of an operation's row of the opcode table, at `DUTY_W = 16` (R88). -/
def Instr.tableMatch : Instr → Nat
  | .reset _ | .buildBadpat _ => 0x2
  | .tick | .buildTz => 0x1
  | .idle | .buildTp => 0x0
  | .tpStep0 => 0x0
  | .tpStep1 => 0x1
  | .tpStep2 => 0x2
  | .tpStep3 => 0x3
  | .tpStep4 => 0x4
  | .tpStep5 => 0x5
  | .tzStep0 => 0x8
  | .tzStep1 => 0x9
  | .tzStep2 => 0xA
  | .tzStep3 => 0xB
  | .tzStep4 => 0xC
  | .tzStep5 => 0xD
  | .romRead => 0x1
  | .inc => 0x8
  | .setDuty _ _ => 0x0
  | .enable _ => 0x40000
  | .disable _ => 0x80000
  | .ack => 0xF0000
  | .romRsvd _ _ | .evtRsvd _ _ _ | .ustepRsvd _ => 0

/-- The outbound operation an event records. -/
def Event.instr : Event → Instr
  | .setDuty c v => .setDuty c v
  | .enable c => .enable c
  | .disable c => .disable c
  | .ack => .ack

/-- The `EVT` word of an event in a trace (R81, R84). -/
def Event.word (W : Nat) (e : Event) : Nat :=
  (encode W e.instr).bits

/-- The `ROW` word `{d_u, d_v, d_w}` of a ROM row, `d_u` most significant (R54, R79). -/
def rowWord (W : Nat) (r : Row) : Nat :=
  r.u * 2 ^ (2 * W) + r.v * 2 ^ W + r.w

/-- The row a `ROW` word holds (R54, R79). -/
def rowOfWord (W b : Nat) : Row :=
  ⟨bitField b (2 * W) W, bitField b W W, bitField b 0 W⟩

/-- The word of a format that the host's pair (number of bits, number) stands for. The pair does not
name the format, and words of the formats `IN`, `CFG`, `ROMSEL` and `USTEP` are the same numbers: a
width that only one format has (4, 5, 20) names it; 2 bits are an `IN` word; in one byte, a number
below 4 is an `IN` word and any other a `ROMSEL` word; 24 bits are an `EVT` word (DESIGN CHOICE, log
entry 5). -/
def tableWord (nbits w : Nat) : OpWord :=
  match nbits with
  | 2 => ⟨.inp, w⟩
  | 4 => ⟨.ustep, w⟩
  | 5 => ⟨.romsel, w⟩
  | 8 => if w < 4 then ⟨.inp, w⟩ else ⟨.romsel, w⟩
  | 20 => ⟨.evt, w⟩
  | 24 => ⟨.evt, w⟩
  | _ => ⟨.row, w⟩

/-- The operation the decoder reads from an opcode-table word, at the table's `DUTY_W = 16`. -/
def decodeTableWord (nbits w : Nat) : Option Instr :=
  (decode 16 (tableWord nbits w)).instr?

end Sys2Proof
end

