-- ==== Sys2Proof/Machine/Operands.lean ====
section
/-! DEFINITION. The operand forms of the block: addition modulo `2^W` (00_scope.md R13), the phase
`step_index mod 6` (10_state.md R25, 30_encoding.md R87), the row a ROM address selects (20_memory.md
R51), the write of one channel's entry, and the duty constants of the two patterns (30_encoding.md
R85, R86). -/

namespace Sys2Proof

/-- `a +_W b`: "`(a + b) mod 2^W`" (R13). -/
def addW (W a b : Nat) : Nat :=
  (a + b) % 2 ^ W

/-- `phase`: "a true remainder and not a bit slice" (R25, R87). -/
def phaseOf (i : Index) : Fin 6 :=
  Fin.ofNat 6 i

/-- The row at a ROM address (R51). Addresses 6 and 7 "do not exist" (R57), so the address is below 6. -/
def Table.rowAt (t : Table) (a : Fin 6) : Row :=
  match a.val with
  | 0 => t.row0
  | 1 => t.row1
  | 2 => t.row2
  | 3 => t.row3
  | 4 => t.row4
  | _ => t.row5

/-- The triple with channel `c`'s entry replaced. -/
def PerChannel.set {α : Type} (c : Channel) (v : α) (x : PerChannel α) : PerChannel α :=
  match c with
  | .u => { x with u := v }
  | .v => { x with v := v }
  | .w => { x with w := v }

/-- `h`, the "high" duty of the two-phase pattern: `MAX_DUTY / 2` rounded down (R85). -/
def highDuty (maxDuty : Nat) : Duty :=
  maxDuty / 2

/-- `l`, the "low" duty of the two-phase pattern: 1 (R85). -/
def lowDuty : Duty :=
  1

/-- `hi` of the default trapezoidal table: `MAX_DUTY / 2` rounded down (R86, decision D8). -/
def trapHigh (maxDuty : Nat) : Duty :=
  maxDuty / 2

/-- `mid` of the default trapezoidal table: `MAX_DUTY / 4` rounded down (R86, decision D8). -/
def trapMid (maxDuty : Nat) : Duty :=
  maxDuty / 4

end Sys2Proof
end

