-- ==== Sys2Proof/Machine/Flags.lean ====
section
/-! DEFINITION. The predicates of the block (10_state.md R27): the enable level a duty decodes to
(42_enable_decoder.md R160) and the count of level changes a row makes (R166). There is no arithmetic
flag. -/

namespace Sys2Proof

/-- `en_of(d)`: 1 if `d != 0`, else 0 (R160). -/
def enOf (d : Duty) : Bool :=
  decide (d ≠ 0)

/-- The three enable levels a row decodes to (R164). -/
def enOfRow (r : Row) : PerChannel Bool :=
  ⟨enOf r.u, enOf r.v, enOf r.w⟩

/-- The toggles of a tick: the channels whose level the row changes (R166). -/
def toggleCount (before : PerChannel Bool) (r : Row) : Nat :=
  (before.u != enOf r.u).toNat + (before.v != enOf r.v).toNat + (before.w != enOf r.w).toNat

end Sys2Proof
end

