-- ==== Sys2Proof/Machine/Rom.lean ====
section
/-! DEFINITION. The contents of the commutation table ROM: the six rows of `two_phase_high_low`
(40_table_rom.md R107 to R112), the six default rows of `three_level_trapezoidal` (R113 to R118), the
table `TRAP_TABLE(MAX_DUTY)` of the parameters (R100), and what a construction gives for two constants:
its status and its table (R100, R191 to R193). Row 0 of the two-phase pattern is the source's; the
other rows are the spec's own decisions D7 and D8. -/

namespace Sys2Proof

/-- Row 0 of `two_phase_high_low`: `(0, h, l)` (R107). -/
def tpRow0 (m : Nat) : Row := ⟨0, highDuty m, lowDuty⟩

/-- Row 1 of `two_phase_high_low`: `(l, h, 0)` (R108). -/
def tpRow1 (m : Nat) : Row := ⟨lowDuty, highDuty m, 0⟩

/-- Row 2 of `two_phase_high_low`: `(l, 0, h)` (R109). -/
def tpRow2 (m : Nat) : Row := ⟨lowDuty, 0, highDuty m⟩

/-- Row 3 of `two_phase_high_low`: `(0, l, h)` (R110). -/
def tpRow3 (m : Nat) : Row := ⟨0, lowDuty, highDuty m⟩

/-- Row 4 of `two_phase_high_low`: `(h, l, 0)` (R111). -/
def tpRow4 (m : Nat) : Row := ⟨highDuty m, lowDuty, 0⟩

/-- Row 5 of `two_phase_high_low`: `(h, 0, l)` (R112). -/
def tpRow5 (m : Nat) : Row := ⟨highDuty m, 0, lowDuty⟩

/-- The table of `two_phase_high_low` (R100). -/
def tpTable (m : Nat) : Table where
  row0 := tpRow0 m
  row1 := tpRow1 m
  row2 := tpRow2 m
  row3 := tpRow3 m
  row4 := tpRow4 m
  row5 := tpRow5 m

/-- The default `TRAP_TABLE`: `(mid, 0, hi)`, `(hi, 0, mid)`, `(hi, mid, 0)`, `(mid, hi, 0)`,
`(0, hi, mid)`, `(0, mid, hi)` (R113 to R118). -/
def tzDefault (m : Nat) : Table where
  row0 := ⟨trapMid m, 0, trapHigh m⟩
  row1 := ⟨trapHigh m, 0, trapMid m⟩
  row2 := ⟨trapHigh m, trapMid m, 0⟩
  row3 := ⟨trapMid m, trapHigh m, 0⟩
  row4 := ⟨0, trapHigh m, trapMid m⟩
  row5 := ⟨0, trapMid m, trapHigh m⟩

/-- The listed table for `MAX_DUTY = m`, or else the default. -/
def trapLookup (trap : List (Nat × Table)) (m : Nat) : Table :=
  match trap with
  | [] => tzDefault m
  | e :: rest => if e.1 = m then e.2 else trapLookup rest m

/-- `TRAP_TABLE(MAX_DUTY)`, the OPEN parameter (R11, R100). -/
def trapTable (p : Params) (m : Nat) : Table :=
  trapLookup p.trap m

/-- `CFG_STATUS` (R30). The code 3 is "reserved, never produced" and has no constructor. -/
inductive CfgStatus where
  | ok
  | errZeroMaxDuty
  | errBadPattern
  deriving DecidableEq, Repr

/-- The two-bit word of `CFG_STATUS` (R30, R83). -/
def CfgStatus.code : CfgStatus → Nat
  | .ok => 0
  | .errZeroMaxDuty => 1
  | .errBadPattern => 2

/-- The status a construction reaches: the `MAX_DUTY` check comes first (R100, R193). -/
def buildStatus (m : Nat) (pattern : Fin 4) : CfgStatus :=
  if m = 0 then .errZeroMaxDuty
  else if pattern = 0 ∨ pattern = 1 then .ok
  else .errBadPattern

/-- The table a construction leaves: none when it raises (R100, R194). -/
def buildTable (p : Params) (m : Nat) (pattern : Fin 4) : Option Table :=
  if m = 0 then none
  else if pattern = 0 then some (tpTable m)
  else if pattern = 1 then some (trapTable p m)
  else none

end Sys2Proof
end

