-- ==== Sys2Proof/Machine/State.lean ====
section
/-! DEFINITION. The state of the machine, plain data: every piece of state of 10_state.md R20, the
parameters of R11 as constant data, and four fields of the model's own (`row`, `trace`, `inputs`,
`fetchWord`); the reasons a step can stop; and the state after reset (R38). -/

namespace Sys2Proof.Machine

/-- The lifecycle mode (R31, R214). -/
inductive Mode where
  | run
  | cfgError
  deriving DecidableEq, Repr

structure State where
  /-- `DUTY_W`, `IDX_W`, `TRAP_TABLE`, `CH_RESET` (R11): constants no step writes. -/
  params : Params
  /-- `MAX_DUTY` (R28). -/
  maxDuty : Nat
  /-- `PATTERN`, two bits (R29). -/
  pattern : Fin 4
  /-- `TABLE`, the ROM contents (R32); none when construction raised: "no `TABLE` exists" (R194). -/
  table : Option Table
  /-- `CFG_STATUS` (R30). -/
  cfgStatus : CfgStatus
  /-- `mode` (R31). -/
  mode : Mode
  /-- `duty_u`, `duty_v`, `duty_w` (R21). -/
  duty : PerChannel Duty
  /-- `en_u`, `en_v`, `en_w` (R22). -/
  en : PerChannel Bool
  /-- `step_index`, alias `pc` (R24). -/
  stepIndex : Index
  /-- `tick_pos`, four bits (R41). -/
  tickPos : Fin 16
  /-- `tick_pending`, the timer-expiry condition (R35). -/
  tickPending : Bool
  /-- The model's own: the `row` signal from the ROM to the mux (R43), held in the latch that R61 and
  R119 allow. -/
  row : Row
  /-- The model's own: the event trace, oldest first (R84). -/
  trace : List Event
  /-- The model's own: what the outside gives, oldest first, one item a step (R92). -/
  inputs : List Input
  /-- The model's own: an operation word standing where the step fetches; only `withFetchWord` puts one
  here, and the step that runs it takes it away. -/
  fetchWord : Option OpWord
  deriving DecidableEq, Repr

/-- Faults. The spec gives the running block none: "No runtime exception exists" (R195), "A model gives
`TICK` no fault arm" (R145), "it does not `fault`" (93_implementation_defined.md I6). So the type has no
constructor; raised by nobody; safe. -/
inductive Fault where
  deriving DecidableEq, Repr

/-- Refusals: what the spec tells a model to refuse. -/
inductive Refusal where
  /-- Raised by an arm of `exec` that has no meaning yet (there is none); safe. -/
  | notModelled (mnemonic : String)
  /-- Raised by the step when what stands at its fetch is no word of its format (R75: "All are fixed length")
  or is a `ROW` word, "one ROM row" (R75), of which "the complete list of operations" has none (R88); safe. -/
  | undecodable (e : DecodeError)
  /-- Raised by `ROM.RSVD`: "A model refuses it and returns no value" (R124); safe. -/
  | romselReserved (pattern : Fin 4) (addr : Fin 8)
  /-- Raised by `EVT.RSVD`: "reserved", "never emitted" (R89), "`refuse`" (93_implementation_defined.md
  section 2); safe. -/
  | evtReserved (op ch : Fin 4) (val : Duty)
  /-- Raised by `USTEP.RSVD`: "reserved, never reached" (R82), "`refuse`" (93_implementation_defined.md
  section 2); safe. -/
  | ustepReserved (pos : Fin 16)
  /-- Raised by `ROM_READ` and `TICK` in a state with `mode = RUN` and no table, which no run reaches
  (Safety.lean's invariant): "no ROM exists", "a model refuses" (R89); safe. -/
  | romAbsent
  /-- Raised by the input `BUILD` when `MAX_DUTY >= 2^DUTY_W`: "refused at elaboration: the constant does
  not fit its field; no hardware exists for it" (R89); safe. -/
  | maxDutyNotRepresentable (maxDuty : Nat)
  deriving DecidableEq, Repr

/-- The machine right after reset (R38), at the parameters R11 gives. `MAX_DUTY` and `PATTERN` are
supplied at construction and have no reset value of their own: 8499 and `two_phase_high_low`, the
source's one worked configuration (DESIGN CHOICE, unsafe, log entry 6). The channel registers hold the
recommended `CH_RESET` (DESIGN CHOICE, unsafe, log entry 4). The row latch is not architectural and is
zero (DESIGN CHOICE, unsafe, log entry 7). -/
def State.reset : State where
  params := Params.standard
  maxDuty := 8499
  pattern := 0
  table := some (tpTable 8499)
  cfgStatus := .ok
  mode := .run
  duty := Params.standard.chReset.duty
  en := Params.standard.chReset.en
  stepIndex := 0
  tickPos := 0
  tickPending := false
  row := ⟨0, 0, 0⟩
  trace := []
  inputs := []
  fetchWord := none

end Sys2Proof.Machine
end

