-- ==== Sys2Proof/Machine/Ops.lean ====
section
/-! DEFINITION. The named operations the meanings share: the port writes (20_memory.md R52, R60), the ROM
read (40_table_rom.md R119), the counter's advance (41_sequencer_fsm.md R135), the acknowledge (R136),
the timer's expiry (60_exceptions.md R199), the acceptance and entry of a tick (R204, R205), the one
exception `ConfigError` (R190, R194) and the construction (40_table_rom.md R100). -/

namespace Sys2Proof.Machine

/-- What a meaning answers. -/
abbrev Result := Host.Outcome State Fault Refusal

/-- The next state of a result, if it has one. -/
def nextState? : Result → Option State
  | .next s => some s
  | .fault _ => none
  | .refused _ => none

/-- Apply a function to the next state of a result; a stop stays as it is. -/
def mapNext (f : State → State) : Result → Result
  | .next s => .next (f s)
  | .fault r => .fault r
  | .refused r => .refused r

/-- In `RUN` an operation has its effect; in `CFG_ERROR` the block "performs no `ROM_READ`, no
`SET_DUTY`, no `ENABLE`, no `DISABLE`, no `INC` and no `ACK`" and the state stands still (R194). -/
def whenRunning (f : State → State) (s : State) : State :=
  if s.mode = .run then f s else s

/-- The row read stands on the `row` signal (R43, R61). -/
def latchRow (r : Row) (s : State) : State :=
  { s with row := r }

/-- `MemWrite(DUTY(c), 1, v)`: `x[c] <- v`, with its event (R15, R176). -/
def writeDuty (c : Channel) (v : Duty) (s : State) : State :=
  { s with duty := s.duty.set c v, trace := s.trace ++ [.setDuty c v] }

/-- `MemWrite(EN(c), 1, b)`: `e[c] <- b`, with its event (R15, R161, R162). -/
def writeLevel (c : Channel) (b : Bool) (s : State) : State :=
  { s with en := s.en.set c b, trace := s.trace ++ [if b then .enable c else .disable c] }

/-- `pc <- pc +_IDX_W 1` (R135). The carry out is discarded (R27). -/
def advanceIndex (s : State) : State :=
  { s with stepIndex := addW s.params.idxW s.stepIndex 1 }

/-- `MemWrite(TICK_ACK, 1, 1)`: `tick_pending <- 0`, its event, then `tick_pos := 0` (R136). It is the
return of the tick handler (R206). -/
def acknowledge (s : State) : State :=
  { s with tickPending := false, tickPos := 0, trace := s.trace ++ [.ack] }

/-- `EXPIRE`: `tick_pending <- 1`; an expiry while it is already 1 leaves it 1 (R35, R92, R208). -/
def timerExpiry (s : State) : State :=
  { s with tickPending := true }

/-- The acceptance condition of a tick (R204). -/
def accepts (s : State) : Bool :=
  decide (s.mode = .run) && decide (s.tickPos = 0) && s.tickPending

/-- The entry of the tick handler: "Entry changes only `tick_pos`"; nothing is saved (R204, R205). -/
def enterTick (s : State) : State :=
  { s with tickPos := 1 }

/-- The exception `ConfigError(code)`, the only one of the block (R190, R194): the status records the
cause, the mode becomes `CFG_ERROR`, no table exists, the counter and the position are 0. No program
counter and no status is saved. -/
def raiseConfigError (code : CfgStatus) (s : State) : State :=
  { s with cfgStatus := code, mode := .cfgError, table := none, stepIndex := 0, tickPos := 0 }

/-- A construction that succeeds: the table is built and the mode is `RUN` (R100). -/
def enterRun (t : Table) (s : State) : State :=
  { s with cfgStatus := .ok, mode := .run, table := some t, stepIndex := 0, tickPos := 0 }

/-- `BUILD(MAX_DUTY, PATTERN)` (R100), of the constants the state holds. -/
def construct (s : State) : State :=
  if s.maxDuty = 0 then raiseConfigError .errZeroMaxDuty s
  else if s.pattern = 0 then enterRun (tpTable s.maxDuty) s
  else if s.pattern = 1 then enterRun (trapTable s.params s.maxDuty) s
  else raiseConfigError .errBadPattern s

/-- `BUILD` with its `CFG` word: the `pattern` port is "sampled by `BUILD` only" (R42, R106). -/
def constructWith (pattern : Fin 4) (s : State) : State :=
  construct { s with pattern := pattern }

/-- `x[0..2], e[0..2] := CH_RESET` (R230). -/
def resetChannels (s : State) : State :=
  { s with duty := s.params.chReset.duty, en := s.params.chReset.en }

/-- `RESET` (R230): a tick in progress is abandoned, the block is constructed again, the channel
registers take `CH_RESET`. -/
def resetBlock (s : State) : State :=
  resetChannels (construct { s with tickPos := 0 })

/-- The row `MemRead(a, 1)` gives, with `a = pc mod 6` (R119); none where no table exists. -/
def currentRow (s : State) : Option Row :=
  s.table.map fun t => t.rowAt (phaseOf s.stepIndex)

/-- `APPLY c, v`: `SET_DUTY c, v` and then the level `en_of(v)` (R93, R168). -/
def applyDuty (c : Channel) (v : Duty) (s : State) : State :=
  writeLevel c (enOf v) (writeDuty c v s)

/-- The three channels of a row, in the order u, v, w (R64, R177). -/
def applyRow (r : Row) (s : State) : State :=
  applyDuty .w (r.get .w) (applyDuty .v (r.get .v) (applyDuty .u (r.get .u) s))

/-- The body of `TICK` once its row is read: the channels, then `INC`, then `ACK` (R131). -/
def tickBody (r : Row) (s : State) : State :=
  acknowledge (advanceIndex (applyRow r (latchRow r s)))

/-- A ROM row stands on the `row` signal when its `ROMSEL` word is selected (R78, R43). -/
def selectRow (r : Row) (s : State) : State :=
  whenRunning (latchRow r) s

/-- The sequencer's move to the next position after a micro-operation at positions 1 to 8 (R82, R134).
`ACK`, at 9, has set it to 0 itself; in `CFG_ERROR` nothing moves (R194). -/
def advancePos (s : State) : State :=
  if s.mode = .run ∧ 1 ≤ s.tickPos ∧ s.tickPos ≤ 8 then { s with tickPos := s.tickPos + 1 } else s

end Sys2Proof.Machine
end

