-- ==== Sys2Proof/Machine/ChannelPorts.lean ====
section
/-! DEFINITION. The meanings of the channel port writes `SET_DUTY` (43_duty_output_mux.md R176), `ENABLE`
(42_enable_decoder.md R161), `DISABLE` (R162), and of the reserved event words (30_encoding.md R89). -/

namespace Sys2Proof.Machine

/-- `SET_DUTY c, v`: `x[c] <- v` (R176). -/
def execSetDuty (c : Channel) (v : Duty) (s : State) : Result :=
  .next (whenRunning (writeDuty c v) s)

/-- `ENABLE c`: `e[c] <- 1` (R161). -/
def execEnable (c : Channel) (s : State) : Result :=
  .next (whenRunning (writeLevel c true) s)

/-- `DISABLE c`: `e[c] <- 0` (R162). -/
def execDisable (c : Channel) (s : State) : Result :=
  .next (whenRunning (writeLevel c false) s)

/-- `EVT.RSVD`: "reserved", "never emitted; a trace containing one is not a trace of this block" (R89). -/
def execEvtRsvd (op ch : Fin 4) (val : Duty) (_s : State) : Result :=
  .refused (.evtReserved op ch val)

end Sys2Proof.Machine
end

