-- ==== Sys2Proof/Machine/Construct.lean ====
section
/-! DEFINITION. The meanings of `RESET` (70_reset_and_hazards.md R230) and of the three `CFG` outcomes of
`BUILD` (40_table_rom.md R100, R106). -/

namespace Sys2Proof.Machine

/-- `RESET`, "whatever `tick_req` is" (R76, R230). It does not touch `tick_pending` and emits nothing. -/
def execReset (_tickReq : Bool) (s : State) : Result :=
  .next (resetBlock s)

/-- `BUILD.TP`: `BUILD` with `PATTERN = 0b00` (R106). -/
def execBuildTp (s : State) : Result :=
  .next (constructWith 0 s)

/-- `BUILD.TZ`: `BUILD` with `PATTERN = 0b01` (R106). -/
def execBuildTz (s : State) : Result :=
  .next (constructWith 1 s)

/-- `BUILD.BADPAT`: `BUILD` with `PATTERN = 0b1x` (R106, R192). -/
def execBuildBadpat (low : Bool) (s : State) : Result :=
  .next (constructWith (if low then 3 else 2) s)

end Sys2Proof.Machine
end

