-- ==== Sys2Proof/Machine/RomRows.lean ====
section
/-! DEFINITION. The meanings of the twelve ROM rows (40_table_rom.md R107 to R118), of `ROM_READ` (R119)
and of the reserved selections (R124). A row's operand is `MAX_DUTY` (R107 to R118); its value goes onto
the `row` signal (log entry 8). -/

namespace Sys2Proof.Machine

/-- `TP.STEP0` (R107). -/
def execTpStep0 (s : State) : Result :=
  .next (selectRow (tpRow0 s.maxDuty) s)

/-- `TP.STEP1` (R108). -/
def execTpStep1 (s : State) : Result :=
  .next (selectRow (tpRow1 s.maxDuty) s)

/-- `TP.STEP2` (R109). -/
def execTpStep2 (s : State) : Result :=
  .next (selectRow (tpRow2 s.maxDuty) s)

/-- `TP.STEP3` (R110). -/
def execTpStep3 (s : State) : Result :=
  .next (selectRow (tpRow3 s.maxDuty) s)

/-- `TP.STEP4` (R111). -/
def execTpStep4 (s : State) : Result :=
  .next (selectRow (tpRow4 s.maxDuty) s)

/-- `TP.STEP5` (R112). -/
def execTpStep5 (s : State) : Result :=
  .next (selectRow (tpRow5 s.maxDuty) s)

/-- `TZ.STEP0` (R113), of the parameter `TRAP_TABLE`. -/
def execTzStep0 (s : State) : Result :=
  .next (selectRow (trapTable s.params s.maxDuty).row0 s)

/-- `TZ.STEP1` (R114), of the parameter `TRAP_TABLE`. -/
def execTzStep1 (s : State) : Result :=
  .next (selectRow (trapTable s.params s.maxDuty).row1 s)

/-- `TZ.STEP2` (R115), of the parameter `TRAP_TABLE`. -/
def execTzStep2 (s : State) : Result :=
  .next (selectRow (trapTable s.params s.maxDuty).row2 s)

/-- `TZ.STEP3` (R116), of the parameter `TRAP_TABLE`. -/
def execTzStep3 (s : State) : Result :=
  .next (selectRow (trapTable s.params s.maxDuty).row3 s)

/-- `TZ.STEP4` (R117), of the parameter `TRAP_TABLE`. -/
def execTzStep4 (s : State) : Result :=
  .next (selectRow (trapTable s.params s.maxDuty).row4 s)

/-- `TZ.STEP5` (R118), of the parameter `TRAP_TABLE`. -/
def execTzStep5 (s : State) : Result :=
  .next (selectRow (trapTable s.params s.maxDuty).row5 s)

/-- `ROM.RSVD`: "A model refuses it and returns no value" (R124). -/
def execRomRsvd (pattern : Fin 4) (addr : Fin 8) (_s : State) : Result :=
  .refused (.romselReserved pattern addr)

/-- `ROM_READ`: `row := TABLE[pc mod 6]` (R119). In `CFG_ERROR` none is performed (R194). -/
def execRomRead (s : State) : Result :=
  if s.mode = .run then
    match currentRow s with
    | some r => .next (latchRow r s)
    | none => .refused .romAbsent
  else .next s

end Sys2Proof.Machine
end

