-- ==== Sys2Proof/Machine/Sequencer.lean ====
section
/-! DEFINITION. The meanings of `TICK` (41_sequencer_fsm.md R131), `IDLE` (R132), `INC` (R135), `ACK`
(R136) and of the reserved positions (30_encoding.md R82). -/

namespace Sys2Proof.Machine

/-- `TICK` as one operation, all nine micro-operations in their order (R131; R134 calls an implementation
that performs them on one edge conforming, and Fetch.lean performs them one a step as well). It is
"accepted under" R204, and otherwise "the word acts as `IDLE`" (R76). -/
def execTick (s : State) : Result :=
  if accepts s then
    match currentRow s with
    | some r => .next (tickBody r s)
    | none => .refused .romAbsent
  else .next s

/-- `IDLE`: "Every piece of state keeps its value; nothing is emitted" (R132). -/
def execIdle (s : State) : Result :=
  .next s

/-- `INC` (R135). -/
def execInc (s : State) : Result :=
  .next (whenRunning advanceIndex s)

/-- `ACK` (R136). -/
def execAck (s : State) : Result :=
  .next (whenRunning acknowledge s)

/-- `USTEP.RSVD`: "reserved, never reached" (R82), and a model's treatment is "`refuse`"
(93_implementation_defined.md section 2). -/
def execUstepRsvd (pos : Fin 16) (_s : State) : Result :=
  .refused (.ustepReserved pos)

end Sys2Proof.Machine
end

