-- ==== Sys2Proof/Machine/Dispatch.lean ====
section
/-! DEFINITION. One arm for each operation: the meaning it calls. -/

namespace Sys2Proof.Machine

def exec (i : Instr) (s : State) : Host.Outcome State Fault Refusal :=
  match i with
  | .reset tickReq => Sys2Proof.Machine.execReset tickReq s
  | .tick => Sys2Proof.Machine.execTick s
  | .idle => Sys2Proof.Machine.execIdle s
  | .buildTp => Sys2Proof.Machine.execBuildTp s
  | .buildTz => Sys2Proof.Machine.execBuildTz s
  | .buildBadpat low => Sys2Proof.Machine.execBuildBadpat low s
  | .tpStep0 => Sys2Proof.Machine.execTpStep0 s
  | .tpStep1 => Sys2Proof.Machine.execTpStep1 s
  | .tpStep2 => Sys2Proof.Machine.execTpStep2 s
  | .tpStep3 => Sys2Proof.Machine.execTpStep3 s
  | .tpStep4 => Sys2Proof.Machine.execTpStep4 s
  | .tpStep5 => Sys2Proof.Machine.execTpStep5 s
  | .tzStep0 => Sys2Proof.Machine.execTzStep0 s
  | .tzStep1 => Sys2Proof.Machine.execTzStep1 s
  | .tzStep2 => Sys2Proof.Machine.execTzStep2 s
  | .tzStep3 => Sys2Proof.Machine.execTzStep3 s
  | .tzStep4 => Sys2Proof.Machine.execTzStep4 s
  | .tzStep5 => Sys2Proof.Machine.execTzStep5 s
  | .romRsvd pattern addr => Sys2Proof.Machine.execRomRsvd pattern addr s
  | .romRead => Sys2Proof.Machine.execRomRead s
  | .inc => Sys2Proof.Machine.execInc s
  | .setDuty c v => Sys2Proof.Machine.execSetDuty c v s
  | .enable c => Sys2Proof.Machine.execEnable c s
  | .disable c => Sys2Proof.Machine.execDisable c s
  | .ack => Sys2Proof.Machine.execAck s
  | .evtRsvd op ch val => Sys2Proof.Machine.execEvtRsvd op ch val s
  | .ustepRsvd pos => Sys2Proof.Machine.execUstepRsvd pos s

end Sys2Proof.Machine
end

