-- ==== Sys2Proof/Machine/Fetch.lean ====
section
/-! DEFINITION. Where the step's operation comes from: a word that stands at the fetch, an input of the
outside, or the sequencer's own position (30_encoding.md R76, R82, R92; 60_exceptions.md R204). -/

namespace Sys2Proof.Machine

/-- Decode a word and perform its operation. A `USTEP` word that names a position performs the
micro-operation there, with the row on the `row` signal as its operand (R82). A number that is no word of
its format, and a `ROW` word, which is data, are no operation and are refused by name (R75, R88). -/
def runWord (w : OpWord) (s : State) : Result :=
  match decode s.params.dutyW w with
  | .ok i => exec i s
  | .atPosition pos => exec (microOp s.row pos) s
  | .rejected e => .refused (.undecodable e)

/-- The sequencer moves by one micro-step: at a quiescent point it accepts a pending tick (R204), and
otherwise it performs the micro-operation at `tick_pos` (R82, R134) and moves on; with no tick in
progress and none accepted that is `IDLE` (R132). -/
def turn (s : State) : Result :=
  if accepts s then .next (enterTick s)
  else mapNext advancePos (exec (microOp s.row s.tickPos) s)

/-- An input of the outside (R92). `BUILD` gives the constants of a construction: a `MAX_DUTY` that does
not fit `DUTY_W` bits is "refused at elaboration" (R89). -/
def present (e : Input) (s : State) : Result :=
  match e with
  | .turn => turn s
  | .expire => .next (timerExpiry s)
  | .inWord rst tickReq => runWord (inWord rst tickReq) s
  | .build m p =>
    if m < 2 ^ s.params.dutyW then runWord ⟨.cfg, p⟩ { s with maxDuty := m }
    else .refused (.maxDutyNotRepresentable m)

/-- The input the next step takes: the oldest the outside has given, and the sequencer's own move when it
has given none. -/
def nextInput (s : State) : Input :=
  s.inputs.headD .turn

/-- The state with that input taken. -/
def takeInput (s : State) : State :=
  { s with inputs := s.inputs.tail }

/-- The step: a word standing at the fetch comes first, then the outside's next input, then the
sequencer. -/
def stepOnce (s : State) : Result :=
  match s.fetchWord with
  | some w => runWord w { s with fetchWord := none }
  | none => present (nextInput s) (takeInput s)

/-- The state with a word standing where `step` fetches. `IN.tick_req` "is the level of `tick_pending`"
(R76) and a `TICK` word "cannot arise" without it (95_test_vectors.md V-SEQ-7), so a `TICK` word comes
with a pending tick. -/
def placeWord (w : OpWord) (s : State) : State :=
  { s with
    fetchWord := some w
    tickPending := s.tickPending || decide (decode s.params.dutyW w = .ok .tick) }

end Sys2Proof.Machine
end

