-- ==== Sys2Proof/Machine/Step.lean ====
section
/-! DEFINITION. One step of the machine, and the placing of an operation word where it fetches. -/

namespace Sys2Proof.Machine

/-- One step (Fetch.lean says which operation it performs). -/
def step (s : State) : Host.Outcome State Fault Refusal :=
  stepOnce s

/-- The state with an opcode-table word standing where `step` fetches its next operation. The block has no
program memory (R3): a program is loaded from outside as the list of inputs, and this stands for the
load of one word (log entry 9). -/
def State.withFetchWord (s : State) (nbits w : Nat) : State :=
  placeWord (tableWord nbits w) s

end Sys2Proof.Machine
end

