-- ==== Sys2Proof/Safety.lean ====
section
/-! DEFINITION. What a legal state of the machine is, and the words the statements use: the admissible
parameters (00_scope.md R11, 40_table_rom.md R102), the invariant of the machine, the active step (R17),
the events and the input list of ticks (30_encoding.md R84, R93), and which input may reconstruct the
block (41_sequencer_fsm.md R147). -/

namespace Sys2Proof

/-- A row in range: every field at most `MAX_DUTY = m` (R102). -/
abbrev Row.InRange (m : Nat) (r : Row) : Prop :=
  r.u ≤ m ∧ r.v ≤ m ∧ r.w ≤ m

/-- A table in range: "for all steps and all three components of each step" (R102). -/
abbrev Table.InRange (m : Nat) (t : Table) : Prop :=
  Row.InRange m t.row0 ∧ Row.InRange m t.row1 ∧ Row.InRange m t.row2 ∧
    Row.InRange m t.row3 ∧ Row.InRange m t.row4 ∧ Row.InRange m t.row5

/-- A triple whose entries fit `W` bits. -/
abbrev PerChannel.Fits (W : Nat) (x : PerChannel Duty) : Prop :=
  x.u < 2 ^ W ∧ x.v < 2 ^ W ∧ x.w < 2 ^ W

/-- Admissible parameters: the widths of R11, every table of `TRAP_TABLE` in range ("A `TRAP_TABLE` that
breaks it is not admissible", R102), and `CH_RESET` values that fit the duty registers. -/
structure Params.Admissible (p : Params) : Prop where
  dutyW_pos : 1 ≤ p.dutyW
  idxW_ge : 3 ≤ p.idxW
  trap_range : ∀ e ∈ p.trap, Table.InRange e.1 e.2
  reset_fits : p.chReset.duty.Fits p.dutyW

/-- The seven events of one accepted tick of a row, in order (R84, R131). -/
def tickEvents (r : Row) : List Event :=
  [.setDuty .u r.u, if r.u = 0 then .disable .u else .enable .u,
   .setDuty .v r.v, if r.v = 0 then .disable .v else .enable .v,
   .setDuty .w r.w, if r.w = 0 then .disable .w else .enable .w,
   .ack]

/-- `TICKS n`: `n` times `EXPIRE`; `TICK` (R93). -/
def ticksProgram : Nat → List Input
  | 0 => []
  | n + 1 => .expire :: .inWord false true :: ticksProgram n

/-- The input is a `RESET` or a `BUILD`: the ones that construct the block again (R147). -/
def Input.reconstructs : Input → Bool
  | .inWord true _ => true
  | .build _ _ => true
  | .inWord false _ => false
  | .turn => false
  | .expire => false

/-- The operation is `RESET` or `BUILD`: the ones that construct the block again (R147). -/
def Instr.reconstructs : Instr → Bool
  | .reset _ | .buildTp | .buildTz | .buildBadpat _ => true
  | .tick | .idle | .romRead | .inc | .setDuty _ _ | .enable _ | .disable _ | .ack => false
  | .tpStep0 | .tpStep1 | .tpStep2 | .tpStep3 | .tpStep4 | .tpStep5 => false
  | .tzStep0 | .tzStep1 | .tzStep2 | .tzStep3 | .tzStep4 | .tzStep5 => false
  | .romRsvd _ _ | .evtRsvd _ _ _ | .ustepRsvd _ => false

namespace Machine

/-- `active_step`: the row the next tick applies, `TABLE[step_index mod 6]` (R17). -/
def State.activeStep (s : State) : Option Row :=
  currentRow s

/-- The channels below the position `tick_pos` of a tick hold what its row gives (R134): the duty of the
`k`-th channel once position `2k + 2` is done, its level once `2k + 3` is. -/
structure State.Applied (s : State) : Prop where
  duty_u : 3 ≤ s.tickPos → s.duty.u = s.row.u
  level_u : 4 ≤ s.tickPos → s.en.u = enOf s.row.u
  duty_v : 5 ≤ s.tickPos → s.duty.v = s.row.v
  level_v : 6 ≤ s.tickPos → s.en.v = enOf s.row.v
  duty_w : 7 ≤ s.tickPos → s.duty.w = s.row.w
  level_w : 8 ≤ s.tickPos → s.en.w = enOf s.row.w

/-- The row a tick in progress holds is the table's: from after the read until `INC` the row at the
current phase, and after `INC` (position 9) the row at the phase before it (R61, R134). -/
structure State.RowHeld (s : State) : Prop where
  before_inc : 2 ≤ s.tickPos → s.tickPos ≤ 8 → currentRow s = some s.row
  after_inc : s.tickPos = 9 → ∃ i t, i < 2 ^ s.params.idxW ∧ s.table = some t ∧
    s.stepIndex = addW s.params.idxW i 1 ∧ s.row = t.rowAt (phaseOf i)

/-- The invariant of the machine. -/
structure State.Inv (s : State) : Prop where
  params_ok : s.params.Admissible
  /-- "`MAX_DUTY < 2^DUTY_W`" (R11). -/
  max_fits : s.maxDuty < 2 ^ s.params.dutyW
  /-- `CFG_STATUS` is "the result of `BUILD`" (R38). -/
  status_eq : s.cfgStatus = buildStatus s.maxDuty s.pattern
  /-- `TABLE = build(MAX_DUTY, PATTERN)` (R32). -/
  table_eq : s.table = buildTable s.params s.maxDuty s.pattern
  /-- "`mode` is `RUN` when `CFG_STATUS = CFG_OK` and `CFG_ERROR` otherwise" (R31). -/
  mode_eq : s.mode = .run ↔ s.cfgStatus = .ok
  /-- `step_index` is in `0 .. 2^IDX_W - 1` (R24). -/
  index_fits : s.stepIndex < 2 ^ s.params.idxW
  /-- A duty register holds a `DUTY_W`-bit value (R21). -/
  duty_fits : s.duty.Fits s.params.dutyW
  /-- `tick_pos` is never reserved (R82). -/
  pos_legal : s.tickPos ≤ 9
  /-- A tick in progress has its condition pending, in `RUN` (R134, R204). -/
  busy_pending : s.tickPos ≠ 0 → s.tickPending = true ∧ s.mode = .run
  /-- In `CFG_ERROR` the counter is 0 (R194). -/
  error_parked : s.mode = .cfgError → s.stepIndex = 0
  row_held : s.RowHeld
  applied : s.Applied
  /-- No word stands at the fetch: no step of a run puts one there. -/
  no_word : s.fetchWord = none

/-- Two states agree on what a tick may depend on (R103, R182): the constants, the table, the mode, the
counter, the position and the pending bit. -/
structure SameControl (s t : State) : Prop where
  params : s.params = t.params
  maxDuty : s.maxDuty = t.maxDuty
  pattern : s.pattern = t.pattern
  table : s.table = t.table
  mode : s.mode = t.mode
  stepIndex : s.stepIndex = t.stepIndex
  tickPos : s.tickPos = t.tickPos
  tickPending : s.tickPending = t.tickPending

/-- Nothing of the block changes but, at most, `tick_pending` from 0 to 1, and the list of inputs. -/
structure OnlyTimer (s t : State) : Prop where
  duty : t.duty = s.duty
  en : t.en = s.en
  stepIndex : t.stepIndex = s.stepIndex
  table : t.table = s.table
  maxDuty : t.maxDuty = s.maxDuty
  pattern : t.pattern = s.pattern
  cfgStatus : t.cfgStatus = s.cfgStatus
  mode : t.mode = s.mode
  params : t.params = s.params
  trace : t.trace = s.trace
  pending : s.tickPending = true → t.tickPending = true

end Machine

end Sys2Proof
end

