-- ==== Sys2Proof/Certificates/Slice0/Obligations.lean ====
section
/-! DEFINITION. The statements for the provers, each a numbered rule of the spec or a consequence of its
sections. "The spec's own decision" in a docstring marks what the spec itself marks as decided (D1 to D30)
or derived; those statements are 'derived' in OBLIGATIONS.json. -/

open Sys2Proof Sys2Proof.Machine

/-! ### Encodings -/

/-- Words written out from 30_encoding.md R76 to R82 and the vectors of 95_test_vectors.md decode to the
operations they stand for (the spec's own decisions D6, D19). -/
def Obligations.WordsDecodeAsTheSpecWritesThem : Prop :=
  decode 16 ⟨.inp, 0b10⟩ = .ok (.reset false) ∧
  decode 16 ⟨.inp, 0b01⟩ = .ok .tick ∧
  decode 16 ⟨.cfg, 0b01⟩ = .ok .buildTz ∧
  decode 16 ⟨.cfg, 0b11⟩ = .ok (.buildBadpat true) ∧
  decode 16 ⟨.romsel, 0b00101⟩ = .ok .tpStep5 ∧
  decode 16 ⟨.romsel, 0b01101⟩ = .ok .tzStep5 ∧
  decode 16 ⟨.romsel, 0b01110⟩ = .ok (.romRsvd 1 6) ∧
  decode 16 ⟨.ustep, 0b1000⟩ = .ok .inc ∧
  decode 16 ⟨.ustep, 0b0001⟩ = .ok .romRead ∧
  decode 16 ⟨.evt, 0x11099⟩ = .ok (.setDuty .v 4249) ∧
  decode 16 ⟨.evt, 0x60000⟩ = .ok (.enable .w) ∧
  decode 16 ⟨.evt, 0x80000⟩ = .ok (.disable .u) ∧
  decode 16 ⟨.evt, 0xF0000⟩ = .ok .ack ∧
  decode 16 ⟨.evt, 0x70000⟩ = .ok (.evtRsvd 1 3 0)

/-- Decoding the word of a well-formed operation gives the operation back, for every operation, every
operand and every duty width (30_encoding.md; the encodings are the spec's own decision D19). -/
def Obligations.DecodeOfEncodeIsTheOperation : Prop :=
  ∀ (W : Nat) (i : Instr), i.wellFormed W = true → decode W (encode W i) = .ok i

/-- Every word the decoder accepts is the word of the operation it answers, and that operation is
well-formed: no two words of a format mean the same operation, and no bit is dropped (30_encoding.md). -/
def Obligations.EncodeOfDecodeIsTheWord : Prop :=
  ∀ (W : Nat) (w : OpWord) (i : Instr), decode W w = .ok i → encode W i = w ∧ i.wellFormed W = true

/-- The reserved `EVT` words are exactly those 30_encoding.md section 4 lists (the spec's own decision
D19). -/
def Obligations.ReservedEventWordsAreExactlyThoseListed : Prop :=
  ∀ (W : Nat) (op ch : Fin 4) (val : Nat), val < 2 ^ W →
    (decode W (evtWord W op ch val) = .ok (.evtRsvd op ch val) ↔
      (op = 3 ∧ ch ≠ 3) ∨ (op ≠ 3 ∧ ch = 3) ∨ (op ≠ 0 ∧ val ≠ 0))

/-- In the formats `IN`, `CFG`, `ROMSEL` and `USTEP`, a word matches the mask and match of the table's row
of the operation it decodes to (30_encoding.md section 3). -/
def Obligations.SmallFormatsMatchTheOpcodeTable : Prop :=
  ∀ f ∈ [Format.inp, .cfg, .romsel, .ustep], ∀ b < 2 ^ f.width 16, ∀ i : Instr,
    decode 16 ⟨f, b⟩ = .ok i → b &&& i.tableMask = i.tableMatch

/-- Packing a ROM row into its `ROW` word and unpacking it gives the row back, and the word fits `3 *
DUTY_W` bits (20_memory.md section 2; the packing is the spec's own decision D10). -/
def Obligations.RowWordHoldsTheRow : Prop :=
  ∀ (W : Nat) (r : Row), r.Fits W →
    rowOfWord W (rowWord W r) = r ∧ rowWord W r < 2 ^ (3 * W)

/-- Every event of a tick is a legal event word of the block, never a reserved one (30_encoding.md sections
1 and 4). -/
def Obligations.EveryEventOfATickIsALegalWord : Prop :=
  ∀ (W : Nat) (r : Row), r.Fits W →
    (tickEvents r).length = 7 ∧
      ∀ e ∈ tickEvents r, decode W ⟨.evt, e.word W⟩ = .ok e.instr

/-! ### What a step runs -/

/-- The word standing at the fetch is decoded and run; a `USTEP` word runs the micro-operation at its
position, with the row on the row signal (30_encoding.md section 1); what is no word of its format, and a
`ROW` word, is refused by name. `withFetchWord` places a word. THE MODEL'S CHOICE: the fetch (log entry 9), a
position's operand (log entry 19, DEDUCED), that numbers too wide and `ROW` words are refused (log entry 25,
DEDUCED), and the format a bare number of the host's is taken for (log entry 5). -/
def Obligations.StepRunsTheWordAtItsFetch : Prop :=
  (∀ (s : State) (w : OpWord) (i : Instr), s.fetchWord = some w → decode s.params.dutyW w = .ok i →
    step s = exec i { s with fetchWord := none }) ∧
  (∀ (s : State) (p : Fin 16), s.fetchWord = some ⟨.ustep, p⟩ →
    step s = exec (microOp s.row p) { s with fetchWord := none }) ∧
  (∀ (s : State) (w : OpWord), 2 ^ w.fmt.width s.params.dutyW ≤ w.bits ∨ w.fmt = .row ↔
    ∃ e, decode s.params.dutyW w = .rejected e) ∧
  (∀ (s : State) (w : OpWord) (e : DecodeError), s.fetchWord = some w →
    decode s.params.dutyW w = .rejected e → step s = .refused (.undecodable e)) ∧
  (∀ (s : State) (nbits w : Nat) (i : Instr), s.params.dutyW = 16 →
    decodeTableWord nbits w = some i →
    step (s.withFetchWord nbits w) =
      exec i { s with
        fetchWord := none
        tickPending := s.tickPending || decide (i = .tick) })

/-- With no word at the fetch, a step takes the outside's next input: an `IN` word runs the operation of
30_encoding.md section 1's table, `rst` first; an expiry sets `tick_pending` and nothing else; a `BUILD`
samples its constants and constructs, unless `MAX_DUTY` does not fit (30_encoding.md section 4). THE MODEL'S
CHOICE: that the outside gives one input a step (log entries 9 and 11), and that a `BUILD` is performed at
any state, running or inside a tick, where 40_table_rom.md has it at construction alone (log entry 15). -/
def Obligations.StepTakesTheNextInput : Prop :=
  ∀ (s : State) (rest : List Input), s.fetchWord = none →
    (∀ rst tickReq, s.inputs = .inWord rst tickReq :: rest →
      step s = exec (if rst then .reset tickReq else if tickReq then .tick else .idle)
        { s with inputs := rest }) ∧
    (s.inputs = .expire :: rest → step s = .next { s with inputs := rest, tickPending := true }) ∧
    (∀ m, ∀ p : Fin 4, s.inputs = .build m p :: rest → m < 2 ^ s.params.dutyW →
      step s = exec (decodeCfg p) { s with inputs := rest, maxDuty := m }) ∧
    (∀ m, ∀ p : Fin 4, s.inputs = .build m p :: rest → 2 ^ s.params.dutyW ≤ m →
      step s = .refused (.maxDutyNotRepresentable m))

/-- With no word at the fetch and the sequencer to move (the outside gave nothing, or a turn), a step at a
quiescent point with a pending tick in `RUN` accepts it by setting `tick_pos` to 1 and nothing else, and
otherwise runs the micro-operation at `tick_pos` and moves to the next position (60_exceptions.md section
4, 30_encoding.md section 1; the spec's own decisions D15, D18).
THE MODEL'S CHOICE: that the sequencer moves when the outside gives nothing (log entry 11). -/
def Obligations.StepOfTheSequencer : Prop :=
  ∀ s : State, s.fetchWord = none → nextInput s = .turn →
    (s.mode = .run → s.tickPos = 0 → s.tickPending = true →
      step s = .next { s with inputs := s.inputs.tail, tickPos := 1 }) ∧
    (¬(s.mode = .run ∧ s.tickPos = 0 ∧ s.tickPending = true) →
      step s = mapNext advancePos
        (exec (microOp s.row s.tickPos) { s with inputs := s.inputs.tail }))

/-- The micro-operation at each position (30_encoding.md section 1; the spec's own decision D18). -/
def Obligations.MicroOperationAtEachPosition : Prop :=
  ∀ r : Row,
    microOp r 0 = .idle ∧ microOp r 1 = .romRead ∧
    microOp r 2 = .setDuty .u r.u ∧
    microOp r 3 = (if r.u ≠ 0 then .enable .u else .disable .u) ∧
    microOp r 4 = .setDuty .v r.v ∧
    microOp r 5 = (if r.v ≠ 0 then .enable .v else .disable .v) ∧
    microOp r 6 = .setDuty .w r.w ∧
    microOp r 7 = (if r.w ≠ 0 then .enable .w else .disable .w) ∧
    microOp r 8 = .inc ∧ microOp r 9 = .ack ∧
    ∀ p : Fin 16, 10 ≤ p → microOp r p = .ustepRsvd p

/-! ### Construction and reset -/

/-- `RESET` abandons a tick in progress, constructs the block again from the constants and sets the channel
registers to `CH_RESET`; it emits nothing, leaves `tick_pending`, and changes nothing else, at every
`tick_pos` and whatever `tick_req` is (70_reset_and_hazards.md section 1; the spec's own decisions D12,
D26; the row latch, log entry 7). -/
def Obligations.ResetConstructsTheBlockAgain : Prop :=
  ∀ (tickReq : Bool) (s : State),
    exec (.reset tickReq) s = .next { s with
      tickPos := 0
      stepIndex := 0
      cfgStatus := buildStatus s.maxDuty s.pattern
      mode := if buildStatus s.maxDuty s.pattern = .ok then .run else .cfgError
      table := buildTable s.params s.maxDuty s.pattern
      duty := s.params.chReset.duty
      en := s.params.chReset.en }

/-- Two resets with the same constants reach the same `TABLE`, the same `step_index` (0, row 0 next), the same
mode, status, position and channel registers, from any two states: nothing of them carries over from before
the reset (70_reset_and_hazards.md section 1; `CH_RESET` is the spec's own decision D12). -/
def Obligations.TwoResetsReachTheSameState : Prop :=
  ∀ (b b' : Bool) (s s' : State), s.params = s'.params → s.maxDuty = s'.maxDuty →
    s.pattern = s'.pattern →
    ∃ t t', exec (.reset b) s = .next t ∧ exec (.reset b') s' = .next t' ∧
      t.table = t'.table ∧ t.stepIndex = t'.stepIndex ∧ t.mode = t'.mode ∧
      t.cfgStatus = t'.cfgStatus ∧ t.duty = t'.duty ∧ t.en = t'.en ∧ t.tickPos = t'.tickPos ∧
      t.stepIndex = 0 ∧ phaseOf t.stepIndex = 0

/-- The state after reset (10_state.md section 9): the counter and the position 0, no pending tick, the
constants, and everything else as `BUILD` and `CH_RESET` give it. The constants 8499 and 0 and the values of
`CH_RESET` are choices (log entries 4 and 6). -/
def Obligations.ResetStateHoldsTheResetValues : Prop :=
  State.reset.stepIndex = 0 ∧ State.reset.tickPos = 0 ∧ State.reset.tickPending = false ∧
  State.reset.cfgStatus = buildStatus State.reset.maxDuty State.reset.pattern ∧
  State.reset.mode = .run ∧
  State.reset.table = buildTable State.reset.params State.reset.maxDuty State.reset.pattern ∧
  State.reset.duty = State.reset.params.chReset.duty ∧
  State.reset.en = State.reset.params.chReset.en ∧
  exec (.reset false) State.reset = .next State.reset

/-- The three `CFG` outcomes of `BUILD` (40_table_rom.md section 2; the spec's own decisions D6 to D8, D14),
for every constant: with `MAX_DUTY ≥ 1`, `BUILD.TP` and `BUILD.TZ` build their table and enter `RUN`, and
`BUILD.BADPAT` raises `CFG_ERR_BAD_PATTERN`; the counter and the position become 0, and nothing else
changes (no channel register is written, nothing is emitted). -/
def Obligations.BuildEntersItsMode : Prop :=
  ∀ s : State, 1 ≤ s.maxDuty →
    exec .buildTp s = .next { s with
      pattern := 0, cfgStatus := .ok, mode := .run, table := some (tpTable s.maxDuty)
      stepIndex := 0, tickPos := 0 } ∧
    exec .buildTz s = .next { s with
      pattern := 1, cfgStatus := .ok, mode := .run, table := some (trapTable s.params s.maxDuty)
      stepIndex := 0, tickPos := 0 } ∧
    ∀ low : Bool, exec (.buildBadpat low) s = .next { s with
      pattern := if low then 3 else 2
      cfgStatus := .errBadPattern, mode := .cfgError, table := none
      stepIndex := 0, tickPos := 0 }

/-- Cause 1 of `ConfigError`: `MAX_DUTY == 0`, raised by `BUILD` before any table is built, and reported before
a bad pattern; every `MAX_DUTY >= 1` passes this check. The raise changes nothing but what 60_exceptions.md
section 1 names (the spec's own decision D14). -/
def Obligations.ZeroMaxDutyRaisesBeforeAnyTable : Prop :=
  ∀ (s : State) (i : Instr) (p : Fin 4),
    (i, p) ∈ [(Instr.buildTp, (0 : Fin 4)), (.buildTz, 1), (.buildBadpat false, 2),
      (.buildBadpat true, 3)] →
    (s.maxDuty = 0 → exec i s = .next { s with
      pattern := p
      cfgStatus := .errZeroMaxDuty, mode := .cfgError, table := none
      stepIndex := 0, tickPos := 0 }) ∧
    (1 ≤ s.maxDuty → ∃ t, exec i s = .next t ∧ t.cfgStatus ≠ .errZeroMaxDuty)

/-- `MAX_DUTY = 1` is legal, with `h = 0`, one nonzero field in each two-phase row and none in the default
trapezoidal rows (40_table_rom.md section 2, derived there). -/
def Obligations.MaxDutyOneIsLegal : Prop :=
  ∀ (p : Params), p.trap = [] →
    buildStatus 1 0 = .ok ∧ buildStatus 1 1 = .ok ∧
    buildTable p 1 0 = some ⟨⟨0, 0, 1⟩, ⟨1, 0, 0⟩, ⟨1, 0, 0⟩, ⟨0, 1, 0⟩, ⟨0, 1, 0⟩, ⟨0, 0, 1⟩⟩ ∧
    ∀ a : Fin 6, (buildTable p 1 1).map (fun t => t.rowAt a) = some ⟨0, 0, 0⟩

/-! ### The ROM -/

/-- Row 0 of `two_phase_high_low` (40_table_rom.md section 3): its word, its value `(0, h, l)`, its enables
when `h != 0`, the example for 8499, and the operation that selects it. THE MODEL'S CHOICE: that the operation
puts the row on the row signal and changes nothing else (log entry 8), and the latch that holds it (log entry
7). -/
def Obligations.TwoPhaseRowZero : Prop :=
  encode 16 .tpStep0 = ⟨.romsel, 0b00000⟩ ∧
  (∀ m, (tpTable m).row0 = ⟨0, m / 2, 1⟩) ∧
  (∀ m, m / 2 ≠ 0 → enOfRow (tpTable m).row0 = ⟨false, true, true⟩) ∧
  (tpTable 8499).row0 = ⟨0, 4249, 1⟩ ∧ rowWord 16 (tpTable 8499).row0 = 0x000010990001 ∧
  ∀ s : State, s.mode = .run → exec .tpStep0 s = .next { s with row := ⟨0, s.maxDuty / 2, 1⟩ }

/-- Rows 1 to 5 of `two_phase_high_low`: the values are the spec's own decision D7 (40_table_rom.md section 3).
THE MODEL'S CHOICE: that selecting a row puts its value on the row signal and changes nothing else (log entry
8), and the latch that holds it (log entry 7). -/
def Obligations.TwoPhaseRowsOneToFive : Prop :=
  ∀ s : State, s.mode = .run →
    exec .tpStep1 s = .next { s with row := ⟨1, s.maxDuty / 2, 0⟩ } ∧
    exec .tpStep2 s = .next { s with row := ⟨1, 0, s.maxDuty / 2⟩ } ∧
    exec .tpStep3 s = .next { s with row := ⟨0, 1, s.maxDuty / 2⟩ } ∧
    exec .tpStep4 s = .next { s with row := ⟨s.maxDuty / 2, 1, 0⟩ } ∧
    exec .tpStep5 s = .next { s with row := ⟨s.maxDuty / 2, 0, 1⟩ }

/-- The rows of `three_level_trapezoidal` are those of the OPEN parameter `TRAP_TABLE` (40_table_rom.md section
4), and the spec's own default (decision D8) where the parameter lists none. THE MODEL'S CHOICE: that selecting
a row puts its value on the row signal and changes nothing else (log entry 8), the latch that holds it (log
entry 7), and that the parameter is a list whose first table for `MAX_DUTY` counts (log entry 3). -/
def Obligations.TrapezoidalRows : Prop :=
  (∀ s : State, s.mode = .run →
    exec .tzStep0 s = .next { s with row := (trapTable s.params s.maxDuty).row0 } ∧
    exec .tzStep1 s = .next { s with row := (trapTable s.params s.maxDuty).row1 } ∧
    exec .tzStep2 s = .next { s with row := (trapTable s.params s.maxDuty).row2 } ∧
    exec .tzStep3 s = .next { s with row := (trapTable s.params s.maxDuty).row3 } ∧
    exec .tzStep4 s = .next { s with row := (trapTable s.params s.maxDuty).row4 } ∧
    exec .tzStep5 s = .next { s with row := (trapTable s.params s.maxDuty).row5 }) ∧
  ∀ (p : Params) (m : Nat),
    (∀ before t rest, p.trap = before ++ (m, t) :: rest → (∀ e ∈ before, e.1 ≠ m) →
      trapTable p m = t) ∧
    ((∀ e ∈ p.trap, e.1 ≠ m) →
      trapTable p m = ⟨⟨m / 4, 0, m / 2⟩, ⟨m / 2, 0, m / 4⟩, ⟨m / 2, m / 4, 0⟩, ⟨m / 4, m / 2, 0⟩,
        ⟨0, m / 2, m / 4⟩, ⟨0, m / 4, m / 2⟩⟩)

/-- Every row of every table a construction builds is in range, for every channel: "for all steps and all
three components of each step, `0 <= duty <= max_duty`", for every admissible `TRAP_TABLE` (R102). -/
def Obligations.EveryRomFieldIsAtMostMaxDuty : Prop :=
  ∀ (p : Params) (m : Nat) (pat : Fin 4) (t : Table), p.Admissible → buildTable p m pat = some t →
    ∀ (a : Fin 6) (c : Channel), (t.rowAt a).get c ≤ m

/-- `ROM_READ` (40_table_rom.md section 5): its word; in `RUN` it reads the row at the remainder of the counter
by 6, whatever the counter is, and writes no state but the latch, which is not architectural; the two
examples; and a read at address 6 or 7 is refused. THE MODEL'S CHOICE: the latch (log entry 7). -/
def Obligations.RomReadReadsTheRowAtThePhase : Prop :=
  encode 16 .romRead = ⟨.ustep, 1⟩ ∧
  (∀ i : Index, (phaseOf i).val = i % 6) ∧
  (∀ (s : State) (t : Table), s.mode = .run → s.table = some t →
    exec .romRead s = .next { s with row := t.rowAt (phaseOf s.stepIndex) }) ∧
  (tpTable 8499).rowAt (phaseOf 5) = ⟨4249, 0, 1⟩ ∧ (tpTable 8499).rowAt (phaseOf 6) = ⟨0, 4249, 1⟩ ∧
  ∀ (s : State) (p : Fin 4),
    exec (.romRsvd p 6) s = .refused (.romselReserved p 6) ∧
    exec (.romRsvd p 7) s = .refused (.romselReserved p 7)

/-- `ROM_READ` selects the `ROMSEL` word `{PATTERN, phase}`: from every legal state in `RUN` that word decodes
to a row, and the read answers what that row's operation answers (40_table_rom.md section 5, 30_encoding.md
section 1). THE MODEL'S CHOICE: that a row's operation puts its row on the row signal (log entry 8), and the
latch that holds it (log entry 7). -/
def Obligations.RomReadSelectsTheRomselRow : Prop :=
  ∀ s : State, s.Inv → s.mode = .run →
    ∃ i, decode s.params.dutyW (romselWord s.pattern (Fin.ofNat 8 (s.stepIndex % 6))) = .ok i ∧
      exec .romRead s = exec i s ∧ ∃ t, exec i s = .next t

/-- The reserved words are refused, each by its own name (40_table_rom.md section 5, 30_encoding.md section 4;
the spec's own decisions D11, D19). -/
def Obligations.ReservedWordsAreRefused : Prop :=
  ∀ s : State,
    (∀ p a, exec (.romRsvd p a) s = .refused (.romselReserved p a)) ∧
    (∀ op ch v, exec (.evtRsvd op ch v) s = .refused (.evtReserved op ch v)) ∧
    (∀ p, exec (.ustepRsvd p) s = .refused (.ustepReserved p))

/-- "No operation writes the ROM after `BUILD`" (R104): no operation but `RESET` and `BUILD` changes the
table, and no step without a `RESET` or `BUILD` input does. -/
def Obligations.NoOperationWritesTheRom : Prop :=
  (∀ (i : Instr) (s t : State), i.reconstructs = false → exec i s = .next t → t.table = s.table) ∧
  (∀ s t : State, s.fetchWord = none → (nextInput s).reconstructs = false → step s = .next t →
    t.table = s.table)

/-! ### The micro-operations -/

/-- `INC` (R135): its word, `pc <- (pc + 1) mod 2^IDX_W` and nothing else (no flag, no event), 5 to 6 and the
top of the range to 0; it stands at position 8, after the six channel writes and before `ACK`. -/
def Obligations.IncAddsOneModuloTheWidth : Prop :=
  encode 16 .inc = ⟨.ustep, 8⟩ ∧ (∀ r, microOp r 8 = .inc ∧ microOp r 9 = .ack) ∧
  ∀ s : State, s.mode = .run →
    exec .inc s = .next { s with stepIndex := (s.stepIndex + 1) % 2 ^ s.params.idxW } ∧
    (s.stepIndex = 5 → 3 ≤ s.params.idxW → ∃ t, exec .inc s = .next t ∧ t.stepIndex = 6 ∧
      phaseOf t.stepIndex = 0) ∧
    (s.stepIndex = 2 ^ s.params.idxW - 1 → ∃ t, exec .inc s = .next t ∧ t.stepIndex = 0)

/-- `SET_DUTY c, v` (R176): its event word, its position, `x[c] <- v` whatever the register held and whatever
`v` is, its event, and nothing else (no flag; the other channels, every level, the counter, the table and the
status stay). -/
def Obligations.SetDutyWritesItsRegister : Prop :=
  (∀ (W : Nat) (c : Channel) (v : Nat), encode W (.setDuty c v) = ⟨.evt, c.code * 2 ^ W + v⟩) ∧
  (∀ r, microOp r 2 = .setDuty .u r.u ∧ microOp r 4 = .setDuty .v r.v ∧
    microOp r 6 = .setDuty .w r.w) ∧
  ∀ (s : State) (c : Channel) (v : Nat), s.mode = .run →
    ∃ t, exec (.setDuty c v) s = .next t ∧ t.duty.get c = v ∧
      (∀ d, d ≠ c → t.duty.get d = s.duty.get d) ∧
      t = { s with duty := t.duty, trace := s.trace ++ [.setDuty c v] }

/-- `ENABLE c` (R161): its event word, its position, `e[c] <- 1` whatever it held, its event, and nothing else
(every other level and every duty stay); performed again it changes no register. -/
def Obligations.EnableDrivesTheChannel : Prop :=
  (∀ (W : Nat) (c : Channel),
    encode W (.enable c) = ⟨.evt, 1 * 2 ^ (W + 2) + c.code * 2 ^ W⟩) ∧
  ((encode 16 (.enable .u)).bits = 0x40000 ∧ (encode 16 (.enable .v)).bits = 0x50000 ∧
    (encode 16 (.enable .w)).bits = 0x60000) ∧
  (∀ r : Row, (r.u ≠ 0 → microOp r 3 = .enable .u) ∧ (r.v ≠ 0 → microOp r 5 = .enable .v) ∧
    (r.w ≠ 0 → microOp r 7 = .enable .w)) ∧
  ∀ (s : State) (c : Channel), s.mode = .run →
    ∃ t, exec (.enable c) s = .next t ∧ t.en.get c = true ∧
      (∀ d, d ≠ c → t.en.get d = s.en.get d) ∧
      t = { s with en := t.en, trace := s.trace ++ [.enable c] } ∧
      (s.en.get c = true → t.en = s.en)

/-- `DISABLE c` (R162): its event word, its position, `e[c] <- 0` whatever it held, its event, and nothing
else; performed again it changes no register; it follows a `SET_DUTY c, 0`. -/
def Obligations.DisableFloatsTheChannel : Prop :=
  (∀ (W : Nat) (c : Channel),
    encode W (.disable c) = ⟨.evt, 2 * 2 ^ (W + 2) + c.code * 2 ^ W⟩) ∧
  ((encode 16 (.disable .u)).bits = 0x80000 ∧ (encode 16 (.disable .v)).bits = 0x90000 ∧
    (encode 16 (.disable .w)).bits = 0xA0000) ∧
  (∀ r : Row,
    (r.u = 0 → microOp r 2 = .setDuty .u 0 ∧ microOp r 3 = .disable .u) ∧
    (r.v = 0 → microOp r 4 = .setDuty .v 0 ∧ microOp r 5 = .disable .v) ∧
    (r.w = 0 → microOp r 6 = .setDuty .w 0 ∧ microOp r 7 = .disable .w)) ∧
  ∀ (s : State) (c : Channel), s.mode = .run →
    ∃ t, exec (.disable c) s = .next t ∧ t.en.get c = false ∧
      (∀ d, d ≠ c → t.en.get d = s.en.get d) ∧
      t = { s with en := t.en, trace := s.trace ++ [.disable c] } ∧
      (s.en.get c = false → t.en = s.en)

/-- `ACK` clears `tick_pending`, emits its event, ends the tick by `tick_pos := 0`, and changes nothing else
(41_sequencer_fsm.md section 6). -/
def Obligations.AckClearsThePendingTick : Prop :=
  ∀ s : State, s.mode = .run →
    exec .ack s = .next { s with
      tickPending := false, tickPos := 0, trace := s.trace ++ [.ack] }

/-- `en_of(d) = 1` if `d != 0`, else `0`, of the value just applied: the level written after a duty `d` is
`ENABLE` exactly when `d` is nonzero, for each channel (R160). -/
def Obligations.LevelIsDutyNotZero : Prop :=
  (∀ d : Duty, enOf d = true ↔ d ≠ 0) ∧
  (∀ r : Row, microOp r 3 = levelOp .u r.u ∧ microOp r 5 = levelOp .v r.v ∧
    microOp r 7 = levelOp .w r.w) ∧
  ∀ (s : State) (c : Channel) (d : Duty), s.mode = .run →
    ∃ t, exec (levelOp c d) s = .next t ∧ (t.en.get c = true ↔ d ≠ 0)

/-! ### The tick -/

/-- `TICK` (R131), accepted in `RUN` with no tick in progress and a pending one: the row at `pc mod 6` goes
to the three duty registers, each level becomes "duty not zero", the counter advances by one modulo
`2^IDX_W`, the condition is cleared and `tick_pos` is 0; the seven events are appended in their order; nothing
else of the block changes, whatever the registers held before and wherever the counter stands. Of the latch
that holds the row, no rule's and the model's own (log entry 7), nothing is said. -/
def Obligations.TickAppliesAdvancesAcknowledges : Prop :=
  decode 16 ⟨.inp, 0b01⟩ = .ok .tick ∧
  ∀ (s : State) (t : Table) (r : Row), s.mode = .run → s.tickPos = 0 → s.tickPending = true →
    s.table = some t → r = t.rowAt (phaseOf s.stepIndex) →
    ∃ latch, exec .tick s = .next { s with
      duty := r
      en := ⟨decide (r.u ≠ 0), decide (r.v ≠ 0), decide (r.w ≠ 0)⟩
      stepIndex := (s.stepIndex + 1) % 2 ^ s.params.idxW
      tickPending := false
      tickPos := 0
      row := latch
      trace := s.trace ++ [
        .setDuty .u r.u, if r.u ≠ 0 then .enable .u else .disable .u,
        .setDuty .v r.v, if r.v ≠ 0 then .enable .v else .disable .v,
        .setDuty .w r.w, if r.w ≠ 0 then .enable .w else .disable .w,
        .ack] }

/-- `IDLE` changes nothing, and a `TICK` whose acceptance condition fails acts as `IDLE` (41_sequencer_fsm.md
section 3, 30_encoding.md section 1; derived there). -/
def Obligations.IdleAndUnacceptedTickChangeNothing : Prop :=
  ∀ s : State,
    exec .idle s = .next s ∧
    (s.mode = .cfgError ∨ s.tickPos ≠ 0 ∨ s.tickPending = false → exec .tick s = .next s)

/-- After a tick `en[c] = en_of(row.c)` for each `c`, "regardless of its previous state", and the reset values
of the enable bits are gone: two states that differ in their channel registers alone agree on all of them
after the tick (R164). -/
def Obligations.LevelsAfterATickForgetThePast : Prop :=
  ∀ (s : State) (t : Table) (duty : PerChannel Duty) (en : PerChannel Bool), s.mode = .run →
    s.tickPos = 0 → s.tickPending = true → s.table = some t →
    ∃ a b, exec .tick s = .next a ∧ exec .tick { s with duty := duty, en := en } = .next b ∧
      (∀ c, a.en.get c = enOf ((t.rowAt (phaseOf s.stepIndex)).get c)) ∧
      b.en = a.en ∧ b.duty = a.duty

/-- What a tick applies depends on the constants, the table, the mode, the counter and its acceptance alone:
two states that agree on those agree on every channel register and on the counter after an accepted tick,
whatever their channel registers, latch, trace and inputs hold (43_duty_output_mux.md section 1, 40_table_rom.md
section 1; derived there). THE MODEL'S CHOICE: the last conjunct, which speaks of the row latch after a
completed tick (log entry 7). -/
def Obligations.TickDependsOnTheControlStateAlone : Prop :=
  ∀ s s' t t' : State, SameControl s s' → accepts s = true → exec .tick s = .next t →
    exec .tick s' = .next t' → t.duty = t'.duty ∧ t.en = t'.en ∧ t.stepIndex = t'.stepIndex ∧
      t.tickPos = t'.tickPos ∧ t.tickPending = t'.tickPending ∧ t.row = t'.row

/-- The nine micro-steps and the state after each (41_sequencer_fsm.md section 2's table; the spec's own
decisions D1, D18): from an accepted tick with no input of the outside, the step that accepts and then each
of the nine leaves the duties, levels, counter and condition the table gives.
THE MODEL'S CHOICE: that the sequencer moves when the outside gives nothing (log entry 11). -/
def Obligations.StateAfterEachMicroStep : Prop :=
  ∀ (s : State) (t : Table) (r : Row) (b : PerChannel Bool), accepts s = true →
    s.fetchWord = none → s.inputs = [] → s.table = some t → r = t.rowAt (phaseOf s.stepIndex) →
    b = enOfRow r →
    ∀ k : Nat, k ≤ 9 → ∃ a, core.run (k + 1) s = .next a ∧
      a.duty = ⟨if 2 ≤ k then r.u else s.duty.u, if 4 ≤ k then r.v else s.duty.v,
        if 6 ≤ k then r.w else s.duty.w⟩ ∧
      a.en = ⟨if 3 ≤ k then b.u else s.en.u, if 5 ≤ k then b.v else s.en.v,
        if 7 ≤ k then b.w else s.en.w⟩ ∧
      a.stepIndex = (if 8 ≤ k then addW s.params.idxW s.stepIndex 1 else s.stepIndex) ∧
      a.tickPending = decide (k ≠ 9) ∧
      a.tickPos.val = (if k = 9 then 0 else k + 1) ∧
      a.trace = s.trace ++ (tickEvents r).take (if k = 9 then 7 else if 8 ≤ k then 6 else k - 1)

/-- Ten micro-steps of the sequencer are one `TICK`, whatever expiries of the timer come between them: from an
accepted tick, any interleaving of turns and expiries that ends with the tenth turn leaves exactly the state
of the whole operation, so an expiry during a tick is lost (60_exceptions.md section 5, 20_memory.md section
5; the spec's own decisions D16, D18; the two forms of a tick and the list of turns are the model's choice,
log entries 10 and 11). -/
def Obligations.MicroStepsAreOneTickAndExpiriesAreLost : Prop :=
  ∀ (s : State) (t : Table) (es rest : List Input), accepts s = true → s.fetchWord = none →
    s.table = some t → s.inputs = es ++ rest → (∀ e ∈ es, e = .turn ∨ e = .expire) →
    es.count .turn = 10 → es.getLast? = some .turn →
    core.run es.length s = exec .tick { s with inputs := rest }

/-- An accepted tick completes: from any legal state at position `k` of a tick, with no input of the outside,
`10 - k` steps reach the idle position with the condition cleared, in `RUN`, with an `ACK` as the last event,
and with the table's row at the phase of the counter before its advance applied to all channels; that counter
is the one the state holds, unless the advance has been made (position 9), and then the one before it
(41_sequencer_fsm.md section 2). That the sequencer moves when the outside gives nothing is the model's
choice (log entry 11). -/
def Obligations.AcceptedTickCompletes : Prop :=
  ∀ s : State, s.Inv → s.tickPos ≠ 0 → s.inputs = [] →
    ∃ a, core.run (10 - s.tickPos.val) s = .next a ∧ a.tickPos = 0 ∧ a.tickPending = false ∧
      a.mode = .run ∧ (∃ before, a.trace = before ++ [.ack]) ∧
      ∃ i t, s.table = some t ∧ i < 2 ^ s.params.idxW ∧ (s.tickPos ≠ 9 → i = s.stepIndex) ∧
        a.stepIndex = addW s.params.idxW i 1 ∧ a.duty = t.rowAt (phaseOf i) ∧ a.en = enOfRow a.duty

/-- "A tick is never accepted while `tick_pos != 0`" (R207): no nesting, no second level. A `TICK` word then
changes nothing, and no step of any input begins another tick. -/
def Obligations.NoTickBeginsInsideATick : Prop :=
  ∀ s : State, s.tickPos ≠ 0 →
    accepts s = false ∧ exec .tick s = .next s ∧
    ∀ t, s.fetchWord = none → step s = .next t → t.tickPos ≠ 1 ∨ t.tickPos = s.tickPos

/-- The acknowledge comes last: in every legal state whose next move is the `ACK` of a tick, all three duties
and levels hold the row and the counter has advanced; and in a legal state no other move of the sequencer clears
`tick_pending` (20_memory.md section 7, 70_reset_and_hazards.md section 3). The row is said through the model's
latch (log entry 7) and, in the last conjunct, as the table's. -/
def Obligations.AcknowledgeComesLast : Prop :=
  ∀ s t : State, s.Inv → nextInput s = .turn → step s = .next t → s.tickPending = true →
    t.tickPending = false →
    s.tickPos = 9 ∧ s.duty = s.row ∧ s.en = enOfRow s.row ∧
      ∃ i tab, s.table = some tab ∧ s.stepIndex = addW s.params.idxW i 1 ∧
        s.row = tab.rowAt (phaseOf i)

/-! ### The counter over many ticks -/

/-- Cyclic advance, exactly: from a legal quiescent state in `RUN`, after `n` times `EXPIRE`; `TICK`, the
counter is `(i + n) mod 2^IDX_W`, the trace has grown by the events of the rows at `(i + k) mod 2^IDX_W mod 6`
for `k = 0 .. n - 1`, the channel registers hold the last of them, and the state is legal and quiescent again
(41_sequencer_fsm.md section 5, derived there).
THE MODEL'S CHOICE: the list of inputs, one a step, and a tick in one step (log entries 9, 10 and 11). -/
def Obligations.CyclicAdvanceExactly : Prop :=
  ∀ (s : State) (t : Table) (n : Nat), s.Inv → s.mode = .run → s.tickPos = 0 → s.table = some t →
    s.inputs = ticksProgram n →
    ∃ a, core.run (2 * n) s = .next a ∧ a.Inv ∧ a.tickPos = 0 ∧ a.mode = .run ∧ a.inputs = [] ∧
      a.stepIndex = (s.stepIndex + n) % 2 ^ s.params.idxW ∧
      a.activeStep = some (t.rowAt (phaseOf ((s.stepIndex + n) % 2 ^ s.params.idxW))) ∧
      a.trace = s.trace ++ (List.range n).flatMap
        (fun k => tickEvents (t.rowAt (phaseOf ((s.stepIndex + k) % 2 ^ s.params.idxW)))) ∧
      (∀ k, n = k + 1 →
        a.duty = t.rowAt (phaseOf ((s.stepIndex + k) % 2 ^ s.params.idxW)) ∧
        a.en = enOfRow a.duty)

/-- The wrap (R137): "When `pc = 2^IDX_W - 1`, `INC` gives `pc = 0`"; the tick that wraps is in every other
respect an ordinary tick (no status, no mode and no flag but the three levels changes), and the active step
after it is `TABLE[0]`. -/
def Obligations.WrapIsSilent : Prop :=
  ∀ (s : State) (t : Table), s.stepIndex = 2 ^ s.params.idxW - 1 → s.mode = .run →
    (∃ a, exec .inc s = .next a ∧ a.stepIndex = 0) ∧
    (s.tickPos = 0 → s.tickPending = true → s.table = some t →
      ∃ a, exec .tick s = .next a ∧ a.stepIndex = 0 ∧ a.activeStep = some t.row0 ∧
        a = tickBody (t.rowAt (phaseOf s.stepIndex)) s ∧
        a.cfgStatus = s.cfgStatus ∧ a.mode = s.mode ∧ a.table = s.table ∧
        a.duty = t.rowAt (phaseOf s.stepIndex) ∧ a.tickPending = false)

/-- The discontinuity at the wrap: the tick at the top of the range applies row 3 when `IDX_W` is even and row
1 when it is odd, and the tick after it applies row 0, so rows are skipped (41_sequencer_fsm.md section 4,
70_reset_and_hazards.md section 3; the spec's own decision D5). -/
def Obligations.WrapSkipsRows : Prop :=
  ∀ (s : State) (t : Table), 1 ≤ s.params.idxW → s.stepIndex = 2 ^ s.params.idxW - 1 →
    accepts s = true → s.table = some t →
    ∃ a b, exec .tick s = .next a ∧
      a.duty = (if s.params.idxW % 2 = 0 then t.row3 else t.row1) ∧
      exec .tick (timerExpiry a) = .next b ∧ b.duty = t.row0 ∧ b.stepIndex = 1

/-- Outputs are held between ticks: with nothing pending, no tick in progress and no input, the state stays as
it is for any number of steps (60_exceptions.md sections 1 and 9).
THE MODEL'S CHOICE: what a step does when the outside gives nothing (log entry 11). -/
def Obligations.OutputsAreHeldBetweenTicks : Prop :=
  ∀ (s : State) (n : Nat), s.fetchWord = none → s.inputs = [] → s.tickPos = 0 →
    s.tickPending = false → core.run n s = .next s

/-! ### The whole machine -/

/-- The state after reset is legal. -/
def Obligations.ResetStateIsLegal : Prop :=
  State.reset.Inv

/-- Every step from a legal state that answers a next state leaves a legal state, whatever the outside gives:
status, table and mode stay what `BUILD` gives, the counter and the duties stay in their widths, the position
is never reserved, and a tick in progress holds its row and has applied what its position says.
THE MODEL'S CHOICE: that the row a tick holds stands in a latch (log entry 7), and the list of inputs (log entry
11). -/
def Obligations.EveryStepKeepsTheMachineLegal : Prop :=
  ∀ s t : State, s.Inv → step s = .next t → t.Inv

/-- A legal machine never stops, but for a `BUILD` whose `MAX_DUTY` has no hardware: "No runtime exception
exists" (60_exceptions.md section 1; the refusal is 30_encoding.md section 4's). -/
def Obligations.LegalMachineNeverStops : Prop :=
  ∀ s : State, s.Inv →
    (∃ t, step s = .next t) ∨
    ∃ m p, nextInput s = .build m p ∧ 2 ^ s.params.dutyW ≤ m ∧
      step s = .refused (.maxDutyNotRepresentable m)

/-- "After construction, `TICK` is the only operation that changes `step_index`, `duty[c]`, `en[c]`, and the
only one that clears `tick_pending`. `IDLE` changes nothing. `RESET` re-constructs. Nothing outside the block
changes any of them except the timer setting `tick_pending`" (R147): a step that is no construction, no accepted
`TICK` and no micro-operation of one changes none of them. -/
def Obligations.TickIsTheOnlyMutator : Prop :=
  (∀ s : State, exec .idle s = .next s) ∧
  (∀ (s : State) (b : Bool), ∃ t, exec (.reset b) s = .next t ∧
    t.table = buildTable s.params s.maxDuty s.pattern ∧ t.stepIndex = 0) ∧
  ∀ s t : State, s.fetchWord = none → (nextInput s).reconstructs = false → step s = .next t →
    ¬(nextInput s = .inWord false true ∧ accepts s = true) →
    ¬(nextInput s = .turn ∧ s.tickPos ≠ 0) → OnlyTimer s t

/-- In `CFG_ERROR` the block stands still: every micro-operation and every row selection answers the state as
it was, and until the next construction no step changes a channel register, the counter, the trace or the
mode, or clears `tick_pending` (60_exceptions.md section 1; the spec's own decision D14). THE MODEL'S CHOICE:
that a micro-operation word presented there answers the state unchanged (log entry 13, DEDUCED), and so does
a row selection (log entry 8). -/
def Obligations.ConfigErrorStandsStill : Prop :=
  ∀ s : State, s.mode = .cfgError →
    (∀ i ∈ [Instr.tick, .idle, .romRead, .inc, .ack, .tpStep0, .tpStep1, .tpStep2, .tpStep3,
      .tpStep4, .tpStep5, .tzStep0, .tzStep1, .tzStep2, .tzStep3, .tzStep4, .tzStep5],
      exec i s = .next s) ∧
    (∀ c v, exec (.setDuty c v) s = .next s) ∧
    (∀ c, exec (.enable c) s = .next s ∧ exec (.disable c) s = .next s) ∧
    ∀ t, s.fetchWord = none → (nextInput s).reconstructs = false → step s = .next t → OnlyTimer s t

/-- A duty the sequencer writes is at most `MAX_DUTY` and is the ROM's field unchanged: in every legal state
at positions 2, 4 and 6 the step writes the field of the current row of that channel (43_duty_output_mux.md
section 1). -/
def Obligations.SequencerWritesTheRomFieldUnchanged : Prop :=
  ∀ (s : State) (c : Channel), s.Inv → nextInput s = .turn →
    (c, s.tickPos) ∈ [(Channel.u, (2 : Fin 16)), (.v, 4), (.w, 6)] →
    ∃ t r, step s = .next t ∧ s.activeStep = some r ∧ t.duty.get c = r.get c ∧
      t.duty.get c ≤ s.maxDuty ∧ t.trace = s.trace ++ [.setDuty c (r.get c)] ∧ t.en = s.en

/-! ### Facts of the two-phase table -/

/-- With the two-phase table and `MAX_DUTY ≥ 2`, a tick after the preceding row makes exactly two toggles, and
the jump from row 3 to row 0 makes none (42_enable_decoder.md section 2; the rows are the spec's own decision
D7). -/
def Obligations.TwoPhaseTickTogglesTwoLevels : Prop :=
  ∀ m, 2 ≤ m →
    (∀ a : Fin 6, toggleCount (enOfRow ((tpTable m).rowAt a)) ((tpTable m).rowAt (a + 1)) = 2) ∧
    toggleCount (enOfRow (tpTable m).row3) (tpTable m).row0 = 0

/-- The three channel sequences of the two-phase table are rotations of one another: `v` runs two phases ahead
of `w` and `w` two ahead of `u` (43_duty_output_mux.md section 2, derived there; decision D7). -/
def Obligations.TwoPhaseChannelsAreRotations : Prop :=
  ∀ (m : Nat) (a : Fin 6),
    ((tpTable m).rowAt a).v = ((tpTable m).rowAt (a + 4)).u ∧
    ((tpTable m).rowAt a).w = ((tpTable m).rowAt (a + 2)).u
end

