-- ==== Sys2Proof/Laws/Operands.lean ====
section
/-! SUPPORT. The laws of the operand forms: reading a channel after writing one, the range of the counter
arithmetic and of the phase, the enable level of a duty. -/

namespace Sys2Proof

variable {α : Type}

@[simp] theorem PerChannel.get_set_same (c : Channel) (v : α) (x : PerChannel α) :
    (x.set c v).get c = v := by
  cases c <;> rfl

theorem PerChannel.get_set_other {c d : Channel} (h : d ≠ c) (v : α) (x : PerChannel α) :
    (x.set c v).get d = x.get d := by
  cases c <;> cases d <;> first | rfl | exact absurd rfl h

/-- Two triples with the same three entries are equal. -/
theorem PerChannel.ext_get {x y : PerChannel α} (h : ∀ c, x.get c = y.get c) : x = y := by
  obtain ⟨a, b, c⟩ := x
  obtain ⟨d, e, f⟩ := y
  have hu := h .u
  have hv := h .v
  have hw := h .w
  simp only [PerChannel.get] at hu hv hw
  rw [hu, hv, hw]

@[simp] theorem PerChannel.set_u (v : α) (x : PerChannel α) : x.set .u v = { x with u := v } := rfl
@[simp] theorem PerChannel.set_v (v : α) (x : PerChannel α) : x.set .v v = { x with v := v } := rfl
@[simp] theorem PerChannel.set_w (v : α) (x : PerChannel α) : x.set .w v = { x with w := v } := rfl
@[simp] theorem PerChannel.get_u (x : PerChannel α) : x.get .u = x.u := rfl
@[simp] theorem PerChannel.get_v (x : PerChannel α) : x.get .v = x.v := rfl
@[simp] theorem PerChannel.get_w (x : PerChannel α) : x.get .w = x.w := rfl

theorem addW_lt (W a b : Nat) : addW W a b < 2 ^ W :=
  Nat.mod_lt _ (Nat.two_pow_pos W)

/-- Below the wrap the counter's sum is the sum of the integers. -/
theorem addW_of_lt {W a b : Nat} (h : a + b < 2 ^ W) : addW W a b = a + b :=
  Nat.mod_eq_of_lt h

/-- Counting on from a reduced value is counting on from the value. -/
theorem addW_addW (W a b c : Nat) : addW W (addW W a b) c = addW W a (b + c) := by
  simp [addW, Nat.add_assoc]

theorem phaseOf_val (i : Index) : (phaseOf i).val = i % 6 := rfl

@[simp] theorem enOf_zero : enOf 0 = false := rfl

theorem enOf_eq_true {d : Duty} : enOf d = true ↔ d ≠ 0 := by
  simp [enOf]

theorem enOf_eq_false {d : Duty} : enOf d = false ↔ d = 0 := by
  simp [enOf]

end Sys2Proof
end

