-- ==== Sys2Proof/Laws/Rom.lean ====
section
/-! SUPPORT. The laws of the ROM contents: every table a construction builds under admissible parameters is
in range (40_table_rom.md R102), and a row of a table in range is in range. -/

namespace Sys2Proof

theorem tpTable_inRange {m : Nat} (h : 1 ≤ m) : Table.InRange m (tpTable m) := by
  have : m / 2 ≤ m := Nat.div_le_self m 2
  simp [Table.InRange, Row.InRange, tpTable, tpRow0, tpRow1, tpRow2, tpRow3, tpRow4, tpRow5,
    highDuty, lowDuty, h, this]

theorem tzDefault_inRange (m : Nat) : Table.InRange m (tzDefault m) := by
  have h2 : m / 2 ≤ m := Nat.div_le_self m 2
  have h4 : m / 4 ≤ m := Nat.div_le_self m 4
  simp [Table.InRange, Row.InRange, tzDefault, trapHigh, trapMid, h2, h4]

theorem trapLookup_inRange {m : Nat} {l : List (Nat × Table)}
    (h : ∀ e ∈ l, Table.InRange e.1 e.2) : Table.InRange m (trapLookup l m) := by
  induction l with
  | nil => exact tzDefault_inRange m
  | cons e rest ih =>
    simp only [trapLookup]
    split
    · next he => exact he ▸ h e (by simp)
    · exact ih fun e' he' => h e' (by simp [he'])

theorem trapTable_inRange {p : Params} (h : p.Admissible) (m : Nat) :
    Table.InRange m (trapTable p m) :=
  trapLookup_inRange h.trap_range

theorem Table.InRange.rowAt {m : Nat} {t : Table} (h : Table.InRange m t) (a : Fin 6) :
    Row.InRange m (t.rowAt a) := by
  obtain ⟨h0, h1, h2, h3, h4, h5⟩ := h
  match a with
  | 0 => exact h0
  | 1 => exact h1
  | 2 => exact h2
  | 3 => exact h3
  | 4 => exact h4
  | 5 => exact h5

/-- What a table built by a construction says of the constants (R100). -/
theorem buildTable_eq_some {p : Params} {m : Nat} {pat : Fin 4} {t : Table}
    (h : buildTable p m pat = some t) :
    1 ≤ m ∧ (pat = 0 ∧ t = tpTable m ∨ pat = 1 ∧ t = trapTable p m) := by
  unfold buildTable at h
  split at h
  · cases h
  · next hm =>
    have hm' : 1 ≤ m := Nat.one_le_iff_ne_zero.mpr hm
    split at h
    · next hp => exact ⟨hm', .inl ⟨hp, (Option.some.inj h).symm⟩⟩
    · split at h
      · next hp => exact ⟨hm', .inr ⟨hp, (Option.some.inj h).symm⟩⟩
      · cases h

theorem buildTable_inRange {p : Params} {m : Nat} {pat : Fin 4} {t : Table} (hp : p.Admissible)
    (h : buildTable p m pat = some t) : Table.InRange m t := by
  obtain ⟨hm, ⟨_, rfl⟩ | ⟨_, rfl⟩⟩ := buildTable_eq_some h
  · exact tpTable_inRange hm
  · exact trapTable_inRange hp m

theorem buildTable_isSome (p : Params) (m : Nat) (pat : Fin 4) :
    (buildTable p m pat).isSome = true ↔ buildStatus m pat = .ok := by
  unfold buildTable buildStatus
  by_cases hm : m = 0
  · simp [hm]
  · by_cases h0 : pat = 0
    · simp [hm, h0]
    · by_cases h1 : pat = 1 <;> simp [hm, h0, h1]

end Sys2Proof
end

