-- ==== Sys2Proof/Laws/State.lean ====
section
/-! SUPPORT. One lemma per field per primitive update of the state, true by `rfl`, so that no later proof
unfolds a record update. -/

namespace Sys2Proof.Machine

variable (s : State)

/-! `latchRow`: the `row` signal (R43). -/

@[simp] theorem latchRow_params (r : Row) : (latchRow r s).params = s.params := rfl
@[simp] theorem latchRow_maxDuty (r : Row) : (latchRow r s).maxDuty = s.maxDuty := rfl
@[simp] theorem latchRow_pattern (r : Row) : (latchRow r s).pattern = s.pattern := rfl
@[simp] theorem latchRow_table (r : Row) : (latchRow r s).table = s.table := rfl
@[simp] theorem latchRow_cfgStatus (r : Row) : (latchRow r s).cfgStatus = s.cfgStatus := rfl
@[simp] theorem latchRow_mode (r : Row) : (latchRow r s).mode = s.mode := rfl
@[simp] theorem latchRow_duty (r : Row) : (latchRow r s).duty = s.duty := rfl
@[simp] theorem latchRow_en (r : Row) : (latchRow r s).en = s.en := rfl
@[simp] theorem latchRow_stepIndex (r : Row) : (latchRow r s).stepIndex = s.stepIndex := rfl
@[simp] theorem latchRow_tickPos (r : Row) : (latchRow r s).tickPos = s.tickPos := rfl
@[simp] theorem latchRow_tickPending (r : Row) : (latchRow r s).tickPending = s.tickPending := rfl
@[simp] theorem latchRow_row (r : Row) : (latchRow r s).row = r := rfl
@[simp] theorem latchRow_trace (r : Row) : (latchRow r s).trace = s.trace := rfl
@[simp] theorem latchRow_inputs (r : Row) : (latchRow r s).inputs = s.inputs := rfl
@[simp] theorem latchRow_fetchWord (r : Row) : (latchRow r s).fetchWord = s.fetchWord := rfl

/-! `writeDuty`: `SET_DUTY` (R176). -/

@[simp] theorem writeDuty_params (c : Channel) (v : Duty) :
    (writeDuty c v s).params = s.params := rfl
@[simp] theorem writeDuty_maxDuty (c : Channel) (v : Duty) :
    (writeDuty c v s).maxDuty = s.maxDuty := rfl
@[simp] theorem writeDuty_pattern (c : Channel) (v : Duty) :
    (writeDuty c v s).pattern = s.pattern := rfl
@[simp] theorem writeDuty_table (c : Channel) (v : Duty) : (writeDuty c v s).table = s.table := rfl
@[simp] theorem writeDuty_cfgStatus (c : Channel) (v : Duty) :
    (writeDuty c v s).cfgStatus = s.cfgStatus := rfl
@[simp] theorem writeDuty_mode (c : Channel) (v : Duty) : (writeDuty c v s).mode = s.mode := rfl
@[simp] theorem writeDuty_duty (c : Channel) (v : Duty) :
    (writeDuty c v s).duty = s.duty.set c v := rfl
@[simp] theorem writeDuty_en (c : Channel) (v : Duty) : (writeDuty c v s).en = s.en := rfl
@[simp] theorem writeDuty_stepIndex (c : Channel) (v : Duty) :
    (writeDuty c v s).stepIndex = s.stepIndex := rfl
@[simp] theorem writeDuty_tickPos (c : Channel) (v : Duty) :
    (writeDuty c v s).tickPos = s.tickPos := rfl
@[simp] theorem writeDuty_tickPending (c : Channel) (v : Duty) :
    (writeDuty c v s).tickPending = s.tickPending := rfl
@[simp] theorem writeDuty_row (c : Channel) (v : Duty) : (writeDuty c v s).row = s.row := rfl
@[simp] theorem writeDuty_trace (c : Channel) (v : Duty) :
    (writeDuty c v s).trace = s.trace ++ [.setDuty c v] := rfl
@[simp] theorem writeDuty_inputs (c : Channel) (v : Duty) :
    (writeDuty c v s).inputs = s.inputs := rfl
@[simp] theorem writeDuty_fetchWord (c : Channel) (v : Duty) :
    (writeDuty c v s).fetchWord = s.fetchWord := rfl

/-! `writeLevel`: `ENABLE`, `DISABLE` (R161, R162). -/

@[simp] theorem writeLevel_params (c : Channel) (b : Bool) :
    (writeLevel c b s).params = s.params := rfl
@[simp] theorem writeLevel_maxDuty (c : Channel) (b : Bool) :
    (writeLevel c b s).maxDuty = s.maxDuty := rfl
@[simp] theorem writeLevel_pattern (c : Channel) (b : Bool) :
    (writeLevel c b s).pattern = s.pattern := rfl
@[simp] theorem writeLevel_table (c : Channel) (b : Bool) :
    (writeLevel c b s).table = s.table := rfl
@[simp] theorem writeLevel_cfgStatus (c : Channel) (b : Bool) :
    (writeLevel c b s).cfgStatus = s.cfgStatus := rfl
@[simp] theorem writeLevel_mode (c : Channel) (b : Bool) : (writeLevel c b s).mode = s.mode := rfl
@[simp] theorem writeLevel_duty (c : Channel) (b : Bool) : (writeLevel c b s).duty = s.duty := rfl
@[simp] theorem writeLevel_en (c : Channel) (b : Bool) : (writeLevel c b s).en = s.en.set c b := rfl
@[simp] theorem writeLevel_stepIndex (c : Channel) (b : Bool) :
    (writeLevel c b s).stepIndex = s.stepIndex := rfl
@[simp] theorem writeLevel_tickPos (c : Channel) (b : Bool) :
    (writeLevel c b s).tickPos = s.tickPos := rfl
@[simp] theorem writeLevel_tickPending (c : Channel) (b : Bool) :
    (writeLevel c b s).tickPending = s.tickPending := rfl
@[simp] theorem writeLevel_row (c : Channel) (b : Bool) : (writeLevel c b s).row = s.row := rfl
@[simp] theorem writeLevel_trace (c : Channel) (b : Bool) :
    (writeLevel c b s).trace = s.trace ++ [if b then .enable c else .disable c] := rfl
@[simp] theorem writeLevel_inputs (c : Channel) (b : Bool) :
    (writeLevel c b s).inputs = s.inputs := rfl
@[simp] theorem writeLevel_fetchWord (c : Channel) (b : Bool) :
    (writeLevel c b s).fetchWord = s.fetchWord := rfl

/-! `advanceIndex`: `INC` (R135). -/

@[simp] theorem advanceIndex_params : (advanceIndex s).params = s.params := rfl
@[simp] theorem advanceIndex_maxDuty : (advanceIndex s).maxDuty = s.maxDuty := rfl
@[simp] theorem advanceIndex_pattern : (advanceIndex s).pattern = s.pattern := rfl
@[simp] theorem advanceIndex_table : (advanceIndex s).table = s.table := rfl
@[simp] theorem advanceIndex_cfgStatus : (advanceIndex s).cfgStatus = s.cfgStatus := rfl
@[simp] theorem advanceIndex_mode : (advanceIndex s).mode = s.mode := rfl
@[simp] theorem advanceIndex_duty : (advanceIndex s).duty = s.duty := rfl
@[simp] theorem advanceIndex_en : (advanceIndex s).en = s.en := rfl
@[simp] theorem advanceIndex_stepIndex :
    (advanceIndex s).stepIndex = addW s.params.idxW s.stepIndex 1 := rfl
@[simp] theorem advanceIndex_tickPos : (advanceIndex s).tickPos = s.tickPos := rfl
@[simp] theorem advanceIndex_tickPending : (advanceIndex s).tickPending = s.tickPending := rfl
@[simp] theorem advanceIndex_row : (advanceIndex s).row = s.row := rfl
@[simp] theorem advanceIndex_trace : (advanceIndex s).trace = s.trace := rfl
@[simp] theorem advanceIndex_inputs : (advanceIndex s).inputs = s.inputs := rfl
@[simp] theorem advanceIndex_fetchWord : (advanceIndex s).fetchWord = s.fetchWord := rfl

/-! `acknowledge`: `ACK` (R136). -/

@[simp] theorem acknowledge_params : (acknowledge s).params = s.params := rfl
@[simp] theorem acknowledge_maxDuty : (acknowledge s).maxDuty = s.maxDuty := rfl
@[simp] theorem acknowledge_pattern : (acknowledge s).pattern = s.pattern := rfl
@[simp] theorem acknowledge_table : (acknowledge s).table = s.table := rfl
@[simp] theorem acknowledge_cfgStatus : (acknowledge s).cfgStatus = s.cfgStatus := rfl
@[simp] theorem acknowledge_mode : (acknowledge s).mode = s.mode := rfl
@[simp] theorem acknowledge_duty : (acknowledge s).duty = s.duty := rfl
@[simp] theorem acknowledge_en : (acknowledge s).en = s.en := rfl
@[simp] theorem acknowledge_stepIndex : (acknowledge s).stepIndex = s.stepIndex := rfl
@[simp] theorem acknowledge_tickPos : (acknowledge s).tickPos = 0 := rfl
@[simp] theorem acknowledge_tickPending : (acknowledge s).tickPending = false := rfl
@[simp] theorem acknowledge_row : (acknowledge s).row = s.row := rfl
@[simp] theorem acknowledge_trace : (acknowledge s).trace = s.trace ++ [.ack] := rfl
@[simp] theorem acknowledge_inputs : (acknowledge s).inputs = s.inputs := rfl
@[simp] theorem acknowledge_fetchWord : (acknowledge s).fetchWord = s.fetchWord := rfl

/-! `timerExpiry`: `EXPIRE` (R199). -/

@[simp] theorem timerExpiry_params : (timerExpiry s).params = s.params := rfl
@[simp] theorem timerExpiry_maxDuty : (timerExpiry s).maxDuty = s.maxDuty := rfl
@[simp] theorem timerExpiry_pattern : (timerExpiry s).pattern = s.pattern := rfl
@[simp] theorem timerExpiry_table : (timerExpiry s).table = s.table := rfl
@[simp] theorem timerExpiry_cfgStatus : (timerExpiry s).cfgStatus = s.cfgStatus := rfl
@[simp] theorem timerExpiry_mode : (timerExpiry s).mode = s.mode := rfl
@[simp] theorem timerExpiry_duty : (timerExpiry s).duty = s.duty := rfl
@[simp] theorem timerExpiry_en : (timerExpiry s).en = s.en := rfl
@[simp] theorem timerExpiry_stepIndex : (timerExpiry s).stepIndex = s.stepIndex := rfl
@[simp] theorem timerExpiry_tickPos : (timerExpiry s).tickPos = s.tickPos := rfl
@[simp] theorem timerExpiry_tickPending : (timerExpiry s).tickPending = true := rfl
@[simp] theorem timerExpiry_row : (timerExpiry s).row = s.row := rfl
@[simp] theorem timerExpiry_trace : (timerExpiry s).trace = s.trace := rfl
@[simp] theorem timerExpiry_inputs : (timerExpiry s).inputs = s.inputs := rfl
@[simp] theorem timerExpiry_fetchWord : (timerExpiry s).fetchWord = s.fetchWord := rfl

/-! `enterTick`: the entry of a tick (R204). -/

@[simp] theorem enterTick_params : (enterTick s).params = s.params := rfl
@[simp] theorem enterTick_maxDuty : (enterTick s).maxDuty = s.maxDuty := rfl
@[simp] theorem enterTick_pattern : (enterTick s).pattern = s.pattern := rfl
@[simp] theorem enterTick_table : (enterTick s).table = s.table := rfl
@[simp] theorem enterTick_cfgStatus : (enterTick s).cfgStatus = s.cfgStatus := rfl
@[simp] theorem enterTick_mode : (enterTick s).mode = s.mode := rfl
@[simp] theorem enterTick_duty : (enterTick s).duty = s.duty := rfl
@[simp] theorem enterTick_en : (enterTick s).en = s.en := rfl
@[simp] theorem enterTick_stepIndex : (enterTick s).stepIndex = s.stepIndex := rfl
@[simp] theorem enterTick_tickPos : (enterTick s).tickPos = 1 := rfl
@[simp] theorem enterTick_tickPending : (enterTick s).tickPending = s.tickPending := rfl
@[simp] theorem enterTick_row : (enterTick s).row = s.row := rfl
@[simp] theorem enterTick_trace : (enterTick s).trace = s.trace := rfl
@[simp] theorem enterTick_inputs : (enterTick s).inputs = s.inputs := rfl
@[simp] theorem enterTick_fetchWord : (enterTick s).fetchWord = s.fetchWord := rfl

/-! `raiseConfigError`: `ConfigError` (R194). -/

@[simp] theorem raiseConfigError_params (e : CfgStatus) :
    (raiseConfigError e s).params = s.params := rfl
@[simp] theorem raiseConfigError_maxDuty (e : CfgStatus) :
    (raiseConfigError e s).maxDuty = s.maxDuty := rfl
@[simp] theorem raiseConfigError_pattern (e : CfgStatus) :
    (raiseConfigError e s).pattern = s.pattern := rfl
@[simp] theorem raiseConfigError_table (e : CfgStatus) : (raiseConfigError e s).table = none := rfl
@[simp] theorem raiseConfigError_cfgStatus (e : CfgStatus) :
    (raiseConfigError e s).cfgStatus = e := rfl
@[simp] theorem raiseConfigError_mode (e : CfgStatus) :
    (raiseConfigError e s).mode = .cfgError := rfl
@[simp] theorem raiseConfigError_duty (e : CfgStatus) : (raiseConfigError e s).duty = s.duty := rfl
@[simp] theorem raiseConfigError_en (e : CfgStatus) : (raiseConfigError e s).en = s.en := rfl
@[simp] theorem raiseConfigError_stepIndex (e : CfgStatus) :
    (raiseConfigError e s).stepIndex = 0 := rfl
@[simp] theorem raiseConfigError_tickPos (e : CfgStatus) : (raiseConfigError e s).tickPos = 0 := rfl
@[simp] theorem raiseConfigError_tickPending (e : CfgStatus) :
    (raiseConfigError e s).tickPending = s.tickPending := rfl
@[simp] theorem raiseConfigError_row (e : CfgStatus) : (raiseConfigError e s).row = s.row := rfl
@[simp] theorem raiseConfigError_trace (e : CfgStatus) :
    (raiseConfigError e s).trace = s.trace := rfl
@[simp] theorem raiseConfigError_inputs (e : CfgStatus) :
    (raiseConfigError e s).inputs = s.inputs := rfl
@[simp] theorem raiseConfigError_fetchWord (e : CfgStatus) :
    (raiseConfigError e s).fetchWord = s.fetchWord := rfl

/-! `enterRun`: a construction that succeeds (R100). -/

@[simp] theorem enterRun_params (t : Table) : (enterRun t s).params = s.params := rfl
@[simp] theorem enterRun_maxDuty (t : Table) : (enterRun t s).maxDuty = s.maxDuty := rfl
@[simp] theorem enterRun_pattern (t : Table) : (enterRun t s).pattern = s.pattern := rfl
@[simp] theorem enterRun_table (t : Table) : (enterRun t s).table = some t := rfl
@[simp] theorem enterRun_cfgStatus (t : Table) : (enterRun t s).cfgStatus = .ok := rfl
@[simp] theorem enterRun_mode (t : Table) : (enterRun t s).mode = .run := rfl
@[simp] theorem enterRun_duty (t : Table) : (enterRun t s).duty = s.duty := rfl
@[simp] theorem enterRun_en (t : Table) : (enterRun t s).en = s.en := rfl
@[simp] theorem enterRun_stepIndex (t : Table) : (enterRun t s).stepIndex = 0 := rfl
@[simp] theorem enterRun_tickPos (t : Table) : (enterRun t s).tickPos = 0 := rfl
@[simp] theorem enterRun_tickPending (t : Table) : (enterRun t s).tickPending = s.tickPending := rfl
@[simp] theorem enterRun_row (t : Table) : (enterRun t s).row = s.row := rfl
@[simp] theorem enterRun_trace (t : Table) : (enterRun t s).trace = s.trace := rfl
@[simp] theorem enterRun_inputs (t : Table) : (enterRun t s).inputs = s.inputs := rfl
@[simp] theorem enterRun_fetchWord (t : Table) : (enterRun t s).fetchWord = s.fetchWord := rfl

/-! `resetChannels`: `CH_RESET` (R230). -/

@[simp] theorem resetChannels_params : (resetChannels s).params = s.params := rfl
@[simp] theorem resetChannels_maxDuty : (resetChannels s).maxDuty = s.maxDuty := rfl
@[simp] theorem resetChannels_pattern : (resetChannels s).pattern = s.pattern := rfl
@[simp] theorem resetChannels_table : (resetChannels s).table = s.table := rfl
@[simp] theorem resetChannels_cfgStatus : (resetChannels s).cfgStatus = s.cfgStatus := rfl
@[simp] theorem resetChannels_mode : (resetChannels s).mode = s.mode := rfl
@[simp] theorem resetChannels_duty : (resetChannels s).duty = s.params.chReset.duty := rfl
@[simp] theorem resetChannels_en : (resetChannels s).en = s.params.chReset.en := rfl
@[simp] theorem resetChannels_stepIndex : (resetChannels s).stepIndex = s.stepIndex := rfl
@[simp] theorem resetChannels_tickPos : (resetChannels s).tickPos = s.tickPos := rfl
@[simp] theorem resetChannels_tickPending : (resetChannels s).tickPending = s.tickPending := rfl
@[simp] theorem resetChannels_row : (resetChannels s).row = s.row := rfl
@[simp] theorem resetChannels_trace : (resetChannels s).trace = s.trace := rfl
@[simp] theorem resetChannels_inputs : (resetChannels s).inputs = s.inputs := rfl
@[simp] theorem resetChannels_fetchWord : (resetChannels s).fetchWord = s.fetchWord := rfl

/-! `takeInput`: the outside's next input (R92). -/

@[simp] theorem takeInput_params : (takeInput s).params = s.params := rfl
@[simp] theorem takeInput_maxDuty : (takeInput s).maxDuty = s.maxDuty := rfl
@[simp] theorem takeInput_pattern : (takeInput s).pattern = s.pattern := rfl
@[simp] theorem takeInput_table : (takeInput s).table = s.table := rfl
@[simp] theorem takeInput_cfgStatus : (takeInput s).cfgStatus = s.cfgStatus := rfl
@[simp] theorem takeInput_mode : (takeInput s).mode = s.mode := rfl
@[simp] theorem takeInput_duty : (takeInput s).duty = s.duty := rfl
@[simp] theorem takeInput_en : (takeInput s).en = s.en := rfl
@[simp] theorem takeInput_stepIndex : (takeInput s).stepIndex = s.stepIndex := rfl
@[simp] theorem takeInput_tickPos : (takeInput s).tickPos = s.tickPos := rfl
@[simp] theorem takeInput_tickPending : (takeInput s).tickPending = s.tickPending := rfl
@[simp] theorem takeInput_row : (takeInput s).row = s.row := rfl
@[simp] theorem takeInput_trace : (takeInput s).trace = s.trace := rfl
@[simp] theorem takeInput_inputs : (takeInput s).inputs = s.inputs.tail := rfl
@[simp] theorem takeInput_fetchWord : (takeInput s).fetchWord = s.fetchWord := rfl

end Sys2Proof.Machine
end

