-- ==== Sys2Proof/Laws/Ops.lean ====
section
/-! SUPPORT. For each shared operation, what it does, once; the provers cite these and do not unfold the
operation. -/

namespace Sys2Proof.Machine

/-- `BUILD` leaves the status, mode and table R100 gives for the constants, the counter and the position at
0, and every other field as it was. -/
theorem construct_eq (s : State) :
    construct s =
      { s with
        cfgStatus := buildStatus s.maxDuty s.pattern
        mode := if buildStatus s.maxDuty s.pattern = .ok then .run else .cfgError
        table := buildTable s.params s.maxDuty s.pattern
        stepIndex := 0
        tickPos := 0 } := by
  unfold construct buildStatus buildTable
  by_cases hm : s.maxDuty = 0
  · simp [hm, raiseConfigError]
  · by_cases h0 : s.pattern = 0
    · simp [hm, h0, enterRun]
    · by_cases h1 : s.pattern = 1
      · simp [hm, h1, enterRun]
      · simp [hm, h0, h1, raiseConfigError]

/-- `RESET` is that construction with the channel registers at `CH_RESET` (R230). -/
theorem resetBlock_eq (s : State) :
    resetBlock s =
      { s with
        cfgStatus := buildStatus s.maxDuty s.pattern
        mode := if buildStatus s.maxDuty s.pattern = .ok then .run else .cfgError
        table := buildTable s.params s.maxDuty s.pattern
        stepIndex := 0
        tickPos := 0
        duty := s.params.chReset.duty
        en := s.params.chReset.en } := by
  simp [resetBlock, construct_eq, resetChannels]

theorem whenRunning_run {f : State → State} {s : State} (h : s.mode = .run) :
    whenRunning f s = f s := by
  simp [whenRunning, h]

theorem whenRunning_error {f : State → State} {s : State} (h : s.mode = .cfgError) :
    whenRunning f s = s := by
  simp [whenRunning, h]

theorem accepts_iff (s : State) :
    accepts s = true ↔ s.mode = .run ∧ s.tickPos = 0 ∧ s.tickPending = true := by
  simp [accepts, and_assoc]

/-- The whole effect of a tick of row `r` (R131). -/
theorem tickBody_eq (r : Row) (s : State) :
    tickBody r s =
      { s with
        duty := r
        en := enOfRow r
        stepIndex := addW s.params.idxW s.stepIndex 1
        tickPos := 0
        tickPending := false
        row := r
        trace := s.trace ++ tickEvents r } := by
  obtain ⟨ru, rv, rw⟩ := r
  by_cases hu : ru = 0 <;> by_cases hv : rv = 0 <;> by_cases hw : rw = 0 <;>
    simp [tickBody, applyRow, applyDuty, acknowledge, advanceIndex, latchRow, writeDuty, writeLevel,
      tickEvents, enOfRow, enOf, hu, hv, hw]

theorem mapNext_next (f : State → State) (s : State) : mapNext f (.next s) = .next (f s) := rfl

/-- If a mapped result has a next state, the result had one. -/
theorem mapNext_eq_next {f : State → State} {r : Result} {t : State} (h : mapNext f r = .next t) :
    ∃ s, r = .next s ∧ f s = t := by
  cases r with
  | next s => exact ⟨s, rfl, by simpa [mapNext] using h⟩
  | fault e => nomatch e
  | refused e => simp [mapNext] at h

theorem currentRow_eq_some {s : State} {r : Row} (h : currentRow s = some r) :
    ∃ t, s.table = some t ∧ r = t.rowAt (phaseOf s.stepIndex) := by
  simp only [currentRow, Option.map_eq_some_iff] at h
  obtain ⟨t, ht, hr⟩ := h
  exact ⟨t, ht, hr.symm⟩

end Sys2Proof.Machine
end

