-- ==== Sys2Proof/Laws/PerInstr.lean ====
section
/-! SUPPORT. A law for each operation: the word of a well-formed operation fits the width of its format
(30_encoding.md R75), so that the decoder never turns it away as too wide. -/

namespace Sys2Proof.Laws.WordFits

/-- The word of the operation, if it is well-formed for the duty width, fits its format. -/
def Statement (i : Instr) : Prop :=
  ∀ W : Nat, i.wellFormed W = true → (encode W i).bits < 2 ^ (encode W i).fmt.width W

/-- An event word with a two-bit `op` and `ch` and a `W`-bit `val` has `W + 4` bits. -/
theorem evt_word_fits {W op ch val : Nat} (ho : op < 4) (hc : ch < 4) (hv : val < 2 ^ W) :
    (evtWord W op ch val).bits < 2 ^ (evtWord W op ch val).fmt.width W := by
  have h : (op * 4 + ch) * 2 ^ W ≤ 15 * 2 ^ W := Nat.mul_le_mul_right _ (by omega)
  have e : op * (2 ^ W * 2 ^ 2) + ch * 2 ^ W = (op * 4 + ch) * 2 ^ W := by ring
  simp only [evtWord, Format.width, Nat.pow_add]
  omega

/-- A channel's code has two bits. -/
theorem code_lt (c : Channel) : c.code < 4 := by
  cases c <;> decide

theorem zero_fits (W : Nat) : 0 < 2 ^ W := Nat.two_pow_pos W

theorem reset (b : Bool) : Statement (.reset b) := fun _ _ => by cases b <;> exact Nat.le_of_ble_eq_true rfl
theorem tick : Statement .tick := fun _ _ => Nat.le_of_ble_eq_true rfl
theorem idle : Statement .idle := fun _ _ => Nat.le_of_ble_eq_true rfl
theorem buildTp : Statement .buildTp := fun _ _ => Nat.le_of_ble_eq_true rfl
theorem buildTz : Statement .buildTz := fun _ _ => Nat.le_of_ble_eq_true rfl
theorem buildBadpat (b : Bool) : Statement (.buildBadpat b) := fun _ _ => by cases b <;> exact Nat.le_of_ble_eq_true rfl
theorem tpStep0 : Statement .tpStep0 := fun _ _ => Nat.le_of_ble_eq_true rfl
theorem tpStep1 : Statement .tpStep1 := fun _ _ => Nat.le_of_ble_eq_true rfl
theorem tpStep2 : Statement .tpStep2 := fun _ _ => Nat.le_of_ble_eq_true rfl
theorem tpStep3 : Statement .tpStep3 := fun _ _ => Nat.le_of_ble_eq_true rfl
theorem tpStep4 : Statement .tpStep4 := fun _ _ => Nat.le_of_ble_eq_true rfl
theorem tpStep5 : Statement .tpStep5 := fun _ _ => Nat.le_of_ble_eq_true rfl
theorem tzStep0 : Statement .tzStep0 := fun _ _ => Nat.le_of_ble_eq_true rfl
theorem tzStep1 : Statement .tzStep1 := fun _ _ => Nat.le_of_ble_eq_true rfl
theorem tzStep2 : Statement .tzStep2 := fun _ _ => Nat.le_of_ble_eq_true rfl
theorem tzStep3 : Statement .tzStep3 := fun _ _ => Nat.le_of_ble_eq_true rfl
theorem tzStep4 : Statement .tzStep4 := fun _ _ => Nat.le_of_ble_eq_true rfl
theorem tzStep5 : Statement .tzStep5 := fun _ _ => Nat.le_of_ble_eq_true rfl
theorem romRsvd (p : Fin 4) (a : Fin 8) : Statement (.romRsvd p a) := fun W _ => by
  show p.val * 8 + a.val < 2 ^ 5
  omega
theorem romRead : Statement .romRead := fun _ _ => Nat.le_of_ble_eq_true rfl
theorem inc : Statement .inc := fun _ _ => Nat.le_of_ble_eq_true rfl
theorem setDuty (c : Channel) (v : Duty) : Statement (.setDuty c v) := fun _ h =>
  evt_word_fits (by decide) (code_lt c) (by simpa [Instr.wellFormed] using h)
theorem enable (c : Channel) : Statement (.enable c) := fun W _ =>
  evt_word_fits (by decide) (code_lt c) (zero_fits W)
theorem disable (c : Channel) : Statement (.disable c) := fun W _ =>
  evt_word_fits (by decide) (code_lt c) (zero_fits W)
theorem ack : Statement .ack := fun W _ =>
  evt_word_fits (by decide) (by decide) (zero_fits W)
theorem evtRsvd (op ch : Fin 4) (v : Duty) : Statement (.evtRsvd op ch v) := fun W h => by
  simp only [Instr.wellFormed, Bool.and_eq_true, decide_eq_true_eq] at h
  exact evt_word_fits op.isLt ch.isLt h.1
theorem ustepRsvd (p : Fin 16) : Statement (.ustepRsvd p) := fun _ _ => p.isLt

end Sys2Proof.Laws.WordFits
end

