-- ==== Sys2Proof/Laws/Step.lean ====
section
/-! SUPPORT. What one step can do, once: the operation a step runs for each place it can come from, and the
inversion lemmas `turn_cases` and `step_cases`, from which every invariant is a case analysis. -/

namespace Sys2Proof.Machine

/-! ### The operation a step runs -/

theorem step_of_word {s : State} {w : OpWord} {i : Instr} (hw : s.fetchWord = some w)
    (hd : decode s.params.dutyW w = .ok i) : step s = exec i { s with fetchWord := none } := by
  simp [step, stepOnce, hw, runWord, hd]

/-- A `USTEP` word runs the micro-operation at its position, whichever of the decoder's answers it has. -/
theorem step_of_position {s : State} {p : Fin 16} (hw : s.fetchWord = some ⟨.ustep, p⟩) :
    step s = exec (microOp s.row p) { s with fetchWord := none } := by
  have hd : decode s.params.dutyW ⟨.ustep, p⟩ = decodeUstep p := if_pos p.isLt
  simp only [step, stepOnce, hw, runWord, hd]
  have key : ∀ p : Fin 16, decodeUstep p = .atPosition p ∨ decodeUstep p = .ok .romRead ∧ p = 1 ∨
      decodeUstep p = .ok .inc ∧ p = 8 ∨ decodeUstep p = .ok (.ustepRsvd p) ∧ 10 ≤ p := by decide
  obtain h | ⟨h, rfl⟩ | ⟨h, rfl⟩ | ⟨h, hp⟩ := key p
  · rw [h]
  · rw [h]; rfl
  · rw [h]; rfl
  · have hm : ∀ p : Fin 16, 10 ≤ p → microOp s.row p = .ustepRsvd p := by
      intro p hp
      have : 10 ≤ p.val := hp
      unfold microOp
      split <;> first | omega | rfl
    rw [h, hm p hp]

theorem step_of_rejected {s : State} {w : OpWord} {e : DecodeError} (hw : s.fetchWord = some w)
    (hd : decode s.params.dutyW w = .rejected e) : step s = .refused (.undecodable e) := by
  simp [step, stepOnce, hw, runWord, hd]

theorem step_of_input {s : State} (h : s.fetchWord = none) :
    step s = present (nextInput s) (takeInput s) := by
  simp [step, stepOnce, h]

theorem decodeInWord (W : Nat) (rst tickReq : Bool) :
    decode W (inWord rst tickReq) =
      .ok (if rst then .reset tickReq else if tickReq then .tick else .idle) := by
  cases rst <;> cases tickReq <;> rfl

theorem present_expire (s : State) : present .expire s = .next (timerExpiry s) := rfl

theorem present_turn (s : State) : present .turn s = turn s := rfl

theorem present_reset (tickReq : Bool) (s : State) :
    present (.inWord true tickReq) s = .next (resetBlock s) := by
  simp [present, runWord, decodeInWord, exec, execReset]

theorem present_tick (s : State) : present (.inWord false true) s = exec .tick s := by
  simp [present, runWord, decodeInWord]

theorem present_idle (s : State) : present (.inWord false false) s = .next s := by
  simp [present, runWord, decodeInWord, exec, execIdle]

theorem present_build (m : Nat) (p : Fin 4) (s : State) :
    present (.build m p) s =
      if m < 2 ^ s.params.dutyW then .next (constructWith p { s with maxDuty := m })
      else .refused (.maxDutyNotRepresentable m) := by
  match p with
  | 0 => rfl
  | 1 => rfl
  | 2 => rfl
  | 3 => rfl

/-! ### The sequencer's micro-step -/

/-- What a turn of the sequencer can do (R134, R204): accept, stand still, or one micro-operation and the
move to the next position. -/
inductive TurnCase (s : State) : State → Prop where
  | accept (h : accepts s = true) : TurnCase s (enterTick s)
  | still (h : s.mode = .cfgError ∨ s.tickPos = 0) : TurnCase s s
  | read (hm : s.mode = .run) (hp : s.tickPos = 1) (r : Row) (hr : currentRow s = some r) :
      TurnCase s { s with row := r, tickPos := 2 }
  | duty (hm : s.mode = .run) (c : Channel) (p : Fin 16)
      (hp : (c, s.tickPos, p) ∈ [(Channel.u, (2 : Fin 16), (3 : Fin 16)), (.v, 4, 5), (.w, 6, 7)]) :
      TurnCase s { writeDuty c (s.row.get c) s with tickPos := p }
  | level (hm : s.mode = .run) (c : Channel) (p : Fin 16)
      (hp : (c, s.tickPos, p) ∈ [(Channel.u, (3 : Fin 16), (4 : Fin 16)), (.v, 5, 6), (.w, 7, 8)]) :
      TurnCase s { writeLevel c (enOf (s.row.get c)) s with tickPos := p }
  | inc (hm : s.mode = .run) (hp : s.tickPos = 8) : TurnCase s { advanceIndex s with tickPos := 9 }
  | ack (hm : s.mode = .run) (hp : s.tickPos = 9) : TurnCase s (acknowledge s)

theorem exec_levelOp (c : Channel) (d : Duty) (s : State) :
    exec (levelOp c d) s = .next (whenRunning (writeLevel c (enOf d)) s) := by
  by_cases hd : d = 0 <;> simp [levelOp, hd, exec, execEnable, execDisable, enOf]

theorem microOp_idle (r : Row) : microOp r 0 = .idle := rfl
theorem microOp_read (r : Row) : microOp r 1 = .romRead := rfl
theorem microOp_inc (r : Row) : microOp r 8 = .inc := rfl
theorem microOp_ack (r : Row) : microOp r 9 = .ack := rfl

theorem microOp_duty {r : Row} {c : Channel} {p q : Fin 16}
    (hc : (c, p, q) ∈ [(Channel.u, (2 : Fin 16), (3 : Fin 16)), (.v, 4, 5), (.w, 6, 7)]) :
    microOp r p = .setDuty c (r.get c) ∧ 1 ≤ p ∧ p ≤ 8 ∧ p + 1 = q := by
  simp only [List.mem_cons, Prod.mk.injEq, List.not_mem_nil, or_false] at hc
  obtain ⟨rfl, rfl, rfl⟩ | ⟨rfl, rfl, rfl⟩ | ⟨rfl, rfl, rfl⟩ := hc <;>
    exact ⟨rfl, by decide, by decide, by decide⟩

theorem microOp_level {r : Row} {c : Channel} {p q : Fin 16}
    (hc : (c, p, q) ∈ [(Channel.u, (3 : Fin 16), (4 : Fin 16)), (.v, 5, 6), (.w, 7, 8)]) :
    microOp r p = levelOp c (r.get c) ∧ 1 ≤ p ∧ p ≤ 8 ∧ p + 1 = q := by
  simp only [List.mem_cons, Prod.mk.injEq, List.not_mem_nil, or_false] at hc
  obtain ⟨rfl, rfl, rfl⟩ | ⟨rfl, rfl, rfl⟩ | ⟨rfl, rfl, rfl⟩ := hc <;>
    exact ⟨rfl, by decide, by decide, by decide⟩

theorem microOp_reserved {r : Row} {p : Fin 16} (h : 10 ≤ p) : microOp r p = .ustepRsvd p := by
  obtain rfl | rfl | rfl | rfl | rfl | rfl :
      p = 10 ∨ p = 11 ∨ p = 12 ∨ p = 13 ∨ p = 14 ∨ p = 15 := by omega
  all_goals rfl

/-- The positions: idle, the read, the three duties, the three levels, `INC`, `ACK`, reserved (R82). -/
theorem pos_cases (p : Fin 16) :
    p = 0 ∨ p = 1 ∨
      (∃ c q, (c, p, q) ∈ [(Channel.u, (2 : Fin 16), (3 : Fin 16)), (.v, 4, 5), (.w, 6, 7)]) ∨
      (∃ c q, (c, p, q) ∈ [(Channel.u, (3 : Fin 16), (4 : Fin 16)), (.v, 5, 6), (.w, 7, 8)]) ∨
      p = 8 ∨ p = 9 ∨ 10 ≤ p := by
  simp only [List.mem_cons, Prod.mk.injEq, List.not_mem_nil, or_false]
  obtain h | h | h | h | h | h | h | h | h | h | h :
      p = 0 ∨ p = 1 ∨ p = 2 ∨ p = 3 ∨ p = 4 ∨ p = 5 ∨ p = 6 ∨ p = 7 ∨ p = 8 ∨ p = 9 ∨ 10 ≤ p := by
    omega
  all_goals subst_vars
  · simp
  · simp
  · exact .inr (.inr (.inl ⟨.u, 3, .inl ⟨rfl, rfl, rfl⟩⟩))
  · exact .inr (.inr (.inr (.inl ⟨.u, 4, .inl ⟨rfl, rfl, rfl⟩⟩)))
  · exact .inr (.inr (.inl ⟨.v, 5, .inr (.inl ⟨rfl, rfl, rfl⟩)⟩))
  · exact .inr (.inr (.inr (.inl ⟨.v, 6, .inr (.inl ⟨rfl, rfl, rfl⟩)⟩)))
  · exact .inr (.inr (.inl ⟨.w, 7, .inr (.inr ⟨rfl, rfl, rfl⟩)⟩))
  · exact .inr (.inr (.inr (.inl ⟨.w, 8, .inr (.inr ⟨rfl, rfl, rfl⟩)⟩)))
  · simp
  · simp
  · simp [h]

theorem advancePos_move {s : State} {p q : Fin 16} (hm : s.mode = .run) (hp : s.tickPos = p)
    (hlo : 1 ≤ p) (hhi : p ≤ 8) (hq : p + 1 = q) : advancePos s = { s with tickPos := q } := by
  subst hp hq
  simp [advancePos, hm, hlo, hhi]

theorem advancePos_still {s : State} (h : s.mode = .cfgError ∨ s.tickPos = 0) : advancePos s = s := by
  rcases h with h | h <;> simp [advancePos, h]

/-- A turn at a position of a tick in progress. -/
theorem turn_at {s : State} {p : Fin 16} {i : Instr} (hp : s.tickPos = p) (h0 : p ≠ 0)
    (hi : microOp s.row p = i) : turn s = mapNext advancePos (exec i s) := by
  subst hp hi
  have : accepts s = false := by simp [accepts, h0]
  simp [turn, this]

theorem turn_accept {s : State} (h : accepts s = true) : turn s = .next (enterTick s) := by
  simp [turn, h]

theorem turn_idle {s : State} (h : accepts s = false) (hp : s.tickPos = 0) : turn s = .next s := by
  simp [turn, h, hp, microOp_idle, exec, execIdle, mapNext, advancePos_still (.inr hp)]

theorem turn_read {s : State} {r : Row} (hm : s.mode = .run) (hp : s.tickPos = 1)
    (hr : currentRow s = some r) : turn s = .next { s with row := r, tickPos := 2 } := by
  rw [turn_at hp (by decide) (microOp_read _)]
  have : exec .romRead s = .next (latchRow r s) := by simp [exec, execRomRead, hm, hr]
  rw [this, mapNext_next,
    advancePos_move (s := latchRow r s) (q := 2) hm hp (by decide) (by decide) (by decide)]
  rfl

theorem turn_duty {s : State} {c : Channel} {q : Fin 16} (hm : s.mode = .run)
    (hc : (c, s.tickPos, q) ∈ [(Channel.u, (2 : Fin 16), (3 : Fin 16)), (.v, 4, 5), (.w, 6, 7)]) :
    turn s = .next { writeDuty c (s.row.get c) s with tickPos := q } := by
  obtain ⟨hi, hlo, hhi, hq⟩ := microOp_duty (r := s.row) hc
  have h0 : s.tickPos ≠ 0 := by omega
  rw [turn_at rfl h0 hi]
  simp only [exec, execSetDuty, whenRunning_run hm]
  rw [mapNext_next, advancePos_move (s := writeDuty _ _ s) hm rfl hlo hhi hq]

theorem turn_level {s : State} {c : Channel} {q : Fin 16} (hm : s.mode = .run)
    (hc : (c, s.tickPos, q) ∈ [(Channel.u, (3 : Fin 16), (4 : Fin 16)), (.v, 5, 6), (.w, 7, 8)]) :
    turn s = .next { writeLevel c (enOf (s.row.get c)) s with tickPos := q } := by
  obtain ⟨hi, hlo, hhi, hq⟩ := microOp_level (r := s.row) hc
  have h0 : s.tickPos ≠ 0 := by omega
  rw [turn_at rfl h0 hi, exec_levelOp, whenRunning_run hm, mapNext_next,
    advancePos_move (s := writeLevel _ _ s) hm rfl hlo hhi hq]

theorem turn_inc {s : State} (hm : s.mode = .run) (hp : s.tickPos = 8) :
    turn s = .next { advanceIndex s with tickPos := 9 } := by
  rw [turn_at hp (by decide) (microOp_inc _)]
  simp only [exec, execInc, whenRunning_run hm]
  rw [mapNext_next,
    advancePos_move (s := advanceIndex s) (q := 9) hm hp (by decide) (by decide) (by decide)]

theorem turn_ack {s : State} (hm : s.mode = .run) (hp : s.tickPos = 9) :
    turn s = .next (acknowledge s) := by
  rw [turn_at hp (by decide) (microOp_ack _)]
  simp only [exec, execAck, whenRunning_run hm]
  rw [mapNext_next, advancePos_still (s := acknowledge s) (.inr rfl)]

/-- At a reserved position a turn is refused (R82). -/
theorem turn_reserved {s : State} (h : 10 ≤ s.tickPos) :
    turn s = .refused (.ustepReserved s.tickPos) := by
  have h0 : s.tickPos ≠ 0 := by omega
  rw [turn_at rfl h0 (microOp_reserved h)]
  rfl

/-- Where no row can be read in `RUN` the read is refused; the invariant rules this out. -/
theorem turn_read_absent {s : State} (hm : s.mode = .run) (hp : s.tickPos = 1)
    (hr : currentRow s = none) : turn s = .refused .romAbsent := by
  rw [turn_at hp (by decide) (microOp_read _)]
  simp [exec, execRomRead, hm, hr, mapNext]

/-- In `CFG_ERROR` a turn stands still, at every position that is not reserved (R194). -/
theorem turn_error {s : State} (hm : s.mode = .cfgError) (hp : s.tickPos ≤ 9) :
    turn s = .next s := by
  have hs : ∀ f, whenRunning f s = s := fun f => whenRunning_error hm
  have ha := advancePos_still (s := s) (.inl hm)
  obtain h | h | ⟨c, q, h⟩ | ⟨c, q, h⟩ | h | h | h := pos_cases s.tickPos
  · exact turn_idle (by simp [accepts, hm]) h
  · rw [turn_at h (by decide) (microOp_read _)]
    simp [exec, execRomRead, hm, mapNext, ha]
  · obtain ⟨hi, hlo, -, -⟩ := microOp_duty (r := s.row) h
    have h0 : s.tickPos ≠ 0 := by omega
    rw [turn_at rfl h0 hi]
    simp [exec, execSetDuty, hs, mapNext, ha]
  · obtain ⟨hi, hlo, -, -⟩ := microOp_level (r := s.row) h
    have h0 : s.tickPos ≠ 0 := by omega
    rw [turn_at rfl h0 hi, exec_levelOp, hs, mapNext_next, ha]
  · rw [turn_at h (by decide) (microOp_inc _)]
    simp [exec, execInc, hs, mapNext, ha]
  · rw [turn_at h (by decide) (microOp_ack _)]
    simp [exec, execAck, hs, mapNext, ha]
  · omega

theorem turn_cases {s s' : State} (h : turn s = .next s') : TurnCase s s' := by
  by_cases ha : accepts s = true
  · rw [turn_accept ha] at h
    cases h
    exact .accept ha
  by_cases h10 : 10 ≤ s.tickPos
  · rw [turn_reserved h10] at h
    cases h
  have h9 : s.tickPos ≤ 9 := by omega
  cases hm : s.mode with
  | cfgError =>
    rw [turn_error hm h9] at h
    cases h
    exact .still (.inl hm)
  | run =>
    obtain hp | hp | ⟨c, q, hp⟩ | ⟨c, q, hp⟩ | hp | hp | hp := pos_cases s.tickPos
    · rw [turn_idle (by simpa using ha) hp] at h
      cases h
      exact .still (.inr hp)
    · cases hr : currentRow s with
      | none => rw [turn_read_absent hm hp hr] at h; cases h
      | some r => rw [turn_read hm hp hr] at h; cases h; exact .read hm hp r hr
    · rw [turn_duty hm hp] at h
      cases h
      exact .duty hm c q hp
    · rw [turn_level hm hp] at h
      cases h
      exact .level hm c q hp
    · rw [turn_inc hm hp] at h
      cases h
      exact .inc hm hp
    · rw [turn_ack hm hp] at h
      cases h
      exact .ack hm hp
    · exact absurd hp h10

/-! ### The step -/

/-- What a step with no word at its fetch can do. -/
inductive StepCase (s : State) : State → Prop where
  | turn (h : nextInput s = .turn) {t : State} (ht : TurnCase (takeInput s) t) : StepCase s t
  | expire (h : nextInput s = .expire) : StepCase s (timerExpiry (takeInput s))
  | reset (b : Bool) (h : nextInput s = .inWord true b) : StepCase s (resetBlock (takeInput s))
  | tick (h : nextInput s = .inWord false true) (ha : accepts s = true) (r : Row)
      (hr : currentRow s = some r) : StepCase s (tickBody r (takeInput s))
  | wait (h : nextInput s = .inWord false true) (ha : accepts s = false) : StepCase s (takeInput s)
  | idle (h : nextInput s = .inWord false false) : StepCase s (takeInput s)
  | build (m : Nat) (p : Fin 4) (h : nextInput s = .build m p) (hm : m < 2 ^ s.params.dutyW) :
      StepCase s (constructWith p { takeInput s with maxDuty := m })

theorem step_cases {s s' : State} (hf : s.fetchWord = none) (h : step s = .next s') :
    StepCase s s' := by
  rw [step_of_input hf] at h
  generalize hn : nextInput s = e at h
  match e with
  | .turn => exact .turn hn (turn_cases h)
  | .expire => cases h; exact .expire hn
  | .inWord true b => rw [present_reset] at h; cases h; exact .reset b hn
  | .inWord false false => rw [present_idle] at h; cases h; exact .idle hn
  | .inWord false true =>
    rw [present_tick] at h
    by_cases ha : accepts s = true
    · have ha' : accepts (takeInput s) = true := ha
      cases hr : currentRow s with
      | none =>
        have hr' : currentRow (takeInput s) = none := hr
        simp [exec, execTick, ha', hr'] at h
      | some r =>
        have hr' : currentRow (takeInput s) = some r := hr
        simp only [exec, execTick, ha', hr', if_true] at h
        cases h
        exact .tick hn ha r hr
    · have ha' : accepts (takeInput s) = false := Bool.eq_false_iff.mpr ha
      simp only [exec, execTick, ha'] at h
      cases h
      exact .wait hn (by simpa using ha)
  | .build m p =>
    rw [present_build] at h
    split at h
    · next hm => cases h; exact .build m p hn hm
    · cases h

end Sys2Proof.Machine
end

