-- ==== Sys2Proof/Tests/Slice0.lean ====
section
/-! SUPPORT. The model's own tests: ill-formed terms the check refuses, words written out from the encodings
of 30_encoding.md that decode to their operations, one-step results from the vectors of
95_test_vectors.md, and for each statement of the obligations a state and operands that meet its
hypotheses. -/

namespace Sys2Proof.Tests

open Sys2Proof Sys2Proof.Machine

/-! ### Well-formedness: each check refuses an ill-formed term -/

theorem test_wf_set_duty_too_wide : (Instr.setDuty .u 65536).wellFormed 16 = false := by decide

theorem test_wf_rom_rsvd_legal_word : (Instr.romRsvd 1 5).wellFormed 16 = false := by decide

theorem test_wf_evt_rsvd_legal_word : (Instr.evtRsvd 3 3 0).wellFormed 16 = false := by decide

theorem test_wf_evt_rsvd_too_wide : (Instr.evtRsvd 1 0 65536).wellFormed 16 = false := by decide

theorem test_wf_ustep_rsvd_legal_position : (Instr.ustepRsvd 9).wellFormed 16 = false := by decide

/-! ### Decoding: words written out from R76 to R82 and R89 -/

/-- R76's table. -/
theorem test_decode_in :
    decode 16 ⟨.inp, 0b10⟩ = .ok (.reset false) ∧ decode 16 ⟨.inp, 0b11⟩ = .ok (.reset true) ∧
    decode 16 ⟨.inp, 0b01⟩ = .ok .tick ∧ decode 16 ⟨.inp, 0b00⟩ = .ok .idle ∧
    decode 16 ⟨.inp, 0b100⟩ = .rejected (.tooWide .inp) := by decide

/-- R77. -/
theorem test_decode_cfg :
    decode 16 ⟨.cfg, 0b00⟩ = .ok .buildTp ∧ decode 16 ⟨.cfg, 0b01⟩ = .ok .buildTz ∧
    decode 16 ⟨.cfg, 0b10⟩ = .ok (.buildBadpat false) ∧
    decode 16 ⟨.cfg, 0b11⟩ = .ok (.buildBadpat true) := by decide

/-- V-ROM-1 to V-ROM-6. -/
theorem test_decode_two_phase_rows :
    decode 16 ⟨.romsel, 0b00000⟩ = .ok .tpStep0 ∧ decode 16 ⟨.romsel, 0b00001⟩ = .ok .tpStep1 ∧
    decode 16 ⟨.romsel, 0b00010⟩ = .ok .tpStep2 ∧ decode 16 ⟨.romsel, 0b00011⟩ = .ok .tpStep3 ∧
    decode 16 ⟨.romsel, 0b00100⟩ = .ok .tpStep4 ∧ decode 16 ⟨.romsel, 0b00101⟩ = .ok .tpStep5 := by
  decide

/-- V-ROM-7 to V-ROM-12. -/
theorem test_decode_trapezoidal_rows :
    decode 16 ⟨.romsel, 0b01000⟩ = .ok .tzStep0 ∧ decode 16 ⟨.romsel, 0b01001⟩ = .ok .tzStep1 ∧
    decode 16 ⟨.romsel, 0b01010⟩ = .ok .tzStep2 ∧ decode 16 ⟨.romsel, 0b01011⟩ = .ok .tzStep3 ∧
    decode 16 ⟨.romsel, 0b01100⟩ = .ok .tzStep4 ∧ decode 16 ⟨.romsel, 0b01101⟩ = .ok .tzStep5 := by
  decide

/-- V-ROM-13. -/
theorem test_decode_rom_rsvd :
    decode 16 ⟨.romsel, 0b00110⟩ = .ok (.romRsvd 0 6) ∧
    decode 16 ⟨.romsel, 0b01111⟩ = .ok (.romRsvd 1 7) ∧
    decode 16 ⟨.romsel, 0b10000⟩ = .ok (.romRsvd 2 0) ∧
    decode 16 ⟨.romsel, 0b11111⟩ = .ok (.romRsvd 3 7) := by decide

/-- R82 and R88: positions 1 and 8 name the internal operations, 10 to 15 are reserved, 0 is idle, and the
others name an `EVT` operation by its position. -/
theorem test_decode_ustep :
    decode 16 ⟨.ustep, 0b0001⟩ = .ok .romRead ∧ decode 16 ⟨.ustep, 0b1000⟩ = .ok .inc ∧
    decode 16 ⟨.ustep, 0b1010⟩ = .ok (.ustepRsvd 10) ∧
    decode 16 ⟨.ustep, 0b1111⟩ = .ok (.ustepRsvd 15) ∧
    decode 16 ⟨.ustep, 0b0000⟩ = .atPosition 0 ∧ decode 16 ⟨.ustep, 0b0010⟩ = .atPosition 2 ∧
    decode 16 ⟨.ustep, 0b1001⟩ = .atPosition 9 ∧
    decode 16 ⟨.ustep, 0b10000⟩ = .rejected (.tooWide .ustep) := by decide

/-- V-MUX-5, V-DEC-1, V-DEC-3 and R81's `ACK`. -/
theorem test_decode_evt :
    decode 16 ⟨.evt, 0x21099⟩ = .ok (.setDuty .w 4249) ∧
    decode 16 ⟨.evt, 0x50000⟩ = .ok (.enable .v) ∧
    decode 16 ⟨.evt, 0x90000⟩ = .ok (.disable .v) ∧
    decode 16 ⟨.evt, 0xF0000⟩ = .ok .ack := by decide

/-- R89: the three kinds of reserved event word. -/
theorem test_decode_evt_rsvd :
    decode 16 ⟨.evt, 0xC0000⟩ = .ok (.evtRsvd 3 0 0) ∧
    decode 16 ⟨.evt, 0x30001⟩ = .ok (.evtRsvd 0 3 1) ∧
    decode 16 ⟨.evt, 0x4FFFF⟩ = .ok (.evtRsvd 1 0 65535) ∧
    decode 16 ⟨.evt, 0xF0001⟩ = .ok (.evtRsvd 3 3 1) := by decide

/-- V-ROM-9: a `ROW` word is data, and holds the row with `d_u` most significant. -/
theorem test_row_word :
    rowWord 16 ⟨4249, 2124, 0⟩ = 0x1099084C0000 ∧ rowOfWord 16 0x1099084C0000 = ⟨4249, 2124, 0⟩ ∧
    decode 16 ⟨.row, 0x1099084C0000⟩ = .rejected .rowIsData := by decide

/-! ### One step of each operation -/

/-- A running block at counter `pc` with a pending tick: the reset state otherwise. -/
def running (pc : Nat) : State := { State.reset with stepIndex := pc, tickPending := true }

/-- A block in `CFG_ERROR` (V-BLD-3), with a pending tick. -/
def stopped : State :=
  { State.reset with
    maxDuty := 0, table := none, cfgStatus := .errZeroMaxDuty, mode := .cfgError, tickPending := true }

/-- The first tick from reset at position `k` (V-SEQ-1): row 0 is `(0, 4249, 1)`. -/
def atPos (k : Fin 10) : State :=
  { State.reset with
    tickPending := true
    tickPos := Fin.ofNat 16 k
    stepIndex := if k = 9 then 1 else 0
    row := ⟨0, 4249, 1⟩
    duty := ⟨0, if 5 ≤ k then 4249 else 0, if 7 ≤ k then 1 else 0⟩
    en := ⟨false, decide (6 ≤ k), decide (8 ≤ k)⟩ }

/-- The next state of a result, with a look at part of it. -/
def look {α : Type} (f : State → α) (r : Result) : Option α := (nextState? r).map f

/-- V-RST-2: a reset inside a tick abandons it, leaves `tick_pending`, and emits nothing. -/
theorem test_reset_inside_a_tick :
    nextState? (exec (.reset false)
        { running 1 with tickPos := 5, duty := ⟨1, 4249, 1⟩, en := ⟨true, true, true⟩ }) =
      some { State.reset with tickPending := true } := by decide

/-- V-RST-4: a reset with the constant `MAX_DUTY = 0` raises. -/
theorem test_reset_raises :
    look (fun t => (t.mode, t.cfgStatus.code, t.table)) (exec (.reset true) { running 7 with maxDuty := 0 })
      = some (.cfgError, 1, none) := by decide

/-- P3, tick 1: from counter 5 row 5 is applied and the counter is 6. -/
theorem test_tick_at_five :
    look (fun t => (t.duty, t.en, t.stepIndex, t.tickPending)) (exec .tick (running 5)) =
      some (⟨4249, 0, 1⟩, ⟨true, false, true⟩, 6, false) := by decide

/-- P1: the seven words of the first tick's trace. -/
theorem test_tick_trace :
    look (fun t => t.trace.map (Event.word 16)) (exec .tick (running 0)) =
      some [0x00000, 0x80000, 0x11099, 0x50000, 0x20001, 0x60000, 0xF0000] := by decide

/-- V-SEQ-6. -/
theorem test_idle : exec .idle (running 3) = .next (running 3) := rfl

/-- V-BLD-14. -/
theorem test_build_tp :
    look (fun t => t.table) (exec .buildTp { stopped with maxDuty := 4 }) =
      some (some ⟨⟨0, 2, 1⟩, ⟨1, 2, 0⟩, ⟨1, 0, 2⟩, ⟨0, 1, 2⟩, ⟨2, 1, 0⟩, ⟨2, 0, 1⟩⟩) := by decide

/-- V-BLD-15, in a block that a failed construction had stopped. -/
theorem test_build_tz :
    look (fun t => (t.table, t.mode, t.cfgStatus.code)) (exec .buildTz { stopped with maxDuty := 4 }) =
      some (some ⟨⟨1, 0, 2⟩, ⟨2, 0, 1⟩, ⟨2, 1, 0⟩, ⟨1, 2, 0⟩, ⟨0, 2, 1⟩, ⟨0, 1, 2⟩⟩, .run, 0) := by
  decide

/-- V-BLD-6 and V-BLD-7: the zero check comes first. -/
theorem test_build_badpat :
    look (fun t => (t.cfgStatus.code, t.table, t.pattern)) (exec (.buildBadpat true) (running 0)) =
      some (2, none, 3) ∧
    look (fun t => t.cfgStatus.code) (exec (.buildBadpat false) stopped) = some 1 := by decide

/-- V-ROM-1 to V-ROM-6: the row each selection puts on the row signal, as its `ROW` word. -/
theorem test_two_phase_rows :
    [Instr.tpStep0, .tpStep1, .tpStep2, .tpStep3, .tpStep4, .tpStep5].map
      (fun i => look (fun t => rowWord 16 t.row) (exec i (running 0))) =
    [some 0x000010990001, some 0x000110990000, some 0x000100001099, some 0x000000011099,
      some 0x109900010000, some 0x109900000001] := by decide

/-- V-ROM-7 to V-ROM-12. -/
theorem test_trapezoidal_rows :
    [Instr.tzStep0, .tzStep1, .tzStep2, .tzStep3, .tzStep4, .tzStep5].map
      (fun i => look (fun t => rowWord 16 t.row) (exec i (running 0))) =
    [some 0x084C00001099, some 0x10990000084C, some 0x1099084C0000, some 0x084C10990000,
      some 0x00001099084C, some 0x0000084C1099] := by decide

/-- V-ROM-13. -/
theorem test_rom_rsvd : exec (.romRsvd 1 6) (running 0) = .refused (.romselReserved 1 6) := rfl

/-- V-ADR-5 and V-ADR-7: the address is a remainder, not a bit slice. -/
theorem test_rom_read :
    look (fun t => t.row) (exec .romRead (running 8)) = some ⟨1, 0, 4249⟩ ∧
    look (fun t => t.row) (exec .romRead (running 0xFFFFFFFF)) = some ⟨0, 1, 4249⟩ := by decide

/-- V-SEQ-2, tick 3: the wrap. -/
theorem test_inc :
    look (fun t => t.stepIndex) (exec .inc (running 0xFFFFFFFF)) = some 0 ∧
    look (fun t => t.stepIndex) (exec .inc (running 5)) = some 6 := by decide

/-- V-MUX-2. -/
theorem test_set_duty :
    look (fun t => (t.duty, t.trace.map (Event.word 16))) (exec (.setDuty .v 4249) (running 0)) =
      some (⟨0, 4249, 0⟩, [0x11099]) := by decide

/-- V-DEC-3. -/
theorem test_enable :
    look (fun t => (t.en, t.trace.map (Event.word 16))) (exec (.enable .v) (running 0)) =
      some (⟨false, true, false⟩, [0x50000]) := by decide

/-- V-DEC-2. -/
theorem test_disable :
    look (fun t => (t.en, t.trace.map (Event.word 16)))
      (exec (.disable .v) { running 0 with en := ⟨true, true, true⟩ }) =
      some (⟨true, false, true⟩, [0x90000]) := by decide

/-- V-SEQ-1, position 9. -/
theorem test_ack :
    look (fun t => (t.tickPending, t.tickPos, t.stepIndex, t.duty)) (exec .ack (atPos 9)) =
      some (false, 0, 1, ⟨0, 4249, 1⟩) := by decide

/-- R89. -/
theorem test_evt_rsvd : exec (.evtRsvd 0 3 0) (running 0) = .refused (.evtReserved 0 3 0) := rfl

/-- R82. -/
theorem test_ustep_rsvd : exec (.ustepRsvd 10) (running 0) = .refused (.ustepReserved 10) := rfl

/-- V-EXC-4: an expiry inside a tick changes nothing. -/
theorem test_expiry_inside_a_tick :
    nextState? (step { atPos 5 with inputs := [.expire] }) = some (atPos 5) := by decide

/-- V-SEQ-1, position 4: the sequencer's own move. -/
theorem test_micro_step :
    look (fun t => (t.duty, t.en, t.tickPos)) (step (atPos 4)) =
      some (⟨0, 4249, 0⟩, ⟨false, false, false⟩, 5) := by decide

/-- V-SEQ-1, positions 4 and 7 as `USTEP` words: the channel write each names, of the row on the row
signal; position 0 is idle. -/
theorem test_fetch_position :
    look (fun t => (t.duty, t.trace.map (Event.word 16))) (step ((atPos 4).withFetchWord 4 4)) =
      some (⟨0, 4249, 0⟩, [0x11099]) ∧
    look (fun t => (t.en, t.trace.map (Event.word 16))) (step ((atPos 7).withFetchWord 4 7)) =
      some (⟨false, true, true⟩, [0x60000]) ∧
    nextState? (step ((running 3).withFetchWord 4 0)) = some (running 3) := by decide

/-- A word placed where the step fetches runs as the first operation after reset. -/
theorem test_fetch_word :
    look (fun t => (t.stepIndex, t.duty)) (step (State.reset.withFetchWord 8 1)) =
      some (1, ⟨0, 4249, 1⟩) ∧
    look (fun t => t.trace) (step (State.reset.withFetchWord 24 0x11099)) =
      some [.setDuty .v 4249] := by decide

/-! ### Witnesses: what the statements assume can hold -/

theorem standard_admissible : Params.standard.Admissible :=
  ⟨by decide, by decide, by decide, by decide⟩

/-- Every position of the first tick is a legal state. -/
theorem witness_inv (k : Fin 10) : (atPos k).Inv where
  params_ok := standard_admissible
  max_fits := by revert k; decide
  status_eq := by revert k; decide
  table_eq := by revert k; decide
  mode_eq := by revert k; decide
  index_fits := by revert k; decide
  duty_fits := by revert k; decide
  pos_legal := by revert k; decide
  busy_pending := by revert k; decide
  error_parked := by revert k; decide
  row_held :=
    ⟨by revert k; decide, fun h => by
      have hk : k = 9 := by revert k; decide
      subst hk
      exact ⟨0, tpTable 8499, by decide, by decide, by decide, by decide⟩⟩
  applied := ⟨by revert k; decide, by revert k; decide, by revert k; decide, by revert k; decide,
    by revert k; decide, by revert k; decide⟩
  no_word := by revert k; decide

/-- A legal state with any list of inputs. -/
theorem witness_inv_inputs (k : Fin 10) (l : List Input) : { atPos k with inputs := l }.Inv :=
  have h := witness_inv k
  ⟨h.params_ok, h.max_fits, h.status_eq, h.table_eq, h.mode_eq, h.index_fits, h.duty_fits, h.pos_legal,
    h.busy_pending, h.error_parked, ⟨h.row_held.before_inc, h.row_held.after_inc⟩, ⟨h.applied.duty_u, h.applied.level_u, h.applied.duty_v,
    h.applied.level_v, h.applied.duty_w, h.applied.level_w⟩, h.no_word⟩

theorem witness_DecodeOfEncodeIsTheOperation : (Instr.setDuty .w 65535).wellFormed 16 = true := by decide

theorem witness_EncodeOfDecodeIsTheWord : decode 16 ⟨.evt, 0xFFFFF⟩ = .ok (.evtRsvd 3 3 65535) := by
  decide

theorem witness_ReservedEventWordsAreExactlyThoseListed :
    65535 < 2 ^ 16 ∧ decode 16 (evtWord 16 3 2 0) = .ok (.evtRsvd 3 2 0) ∧
    decode 16 (evtWord 16 0 3 0) = .ok (.evtRsvd 0 3 0) ∧
    decode 16 (evtWord 16 2 0 65535) = .ok (.evtRsvd 2 0 65535) ∧
    decode 16 (evtWord 16 0 0 65535) = .ok (.setDuty .u 65535) := by decide

theorem witness_SmallFormatsMatchTheOpcodeTable :
    Format.romsel ∈ [Format.inp, .cfg, .romsel, .ustep] ∧ 31 < 2 ^ Format.romsel.width 16 ∧
    decode 16 ⟨.romsel, 31⟩ = .ok (.romRsvd 3 7) := by decide

theorem witness_RowWordHoldsTheRow : PerChannel.Fits 16 ⟨65535, 0, 65535⟩ := by decide

theorem witness_EveryEventOfATickIsALegalWord : PerChannel.Fits 16 ⟨0, 65535, 1⟩ := by decide

theorem witness_StepRunsTheWordAtItsFetch :
    (State.reset.withFetchWord 20 0xF0000).fetchWord = some ⟨.evt, 0xF0000⟩ ∧
    decode 16 ⟨.evt, 0xF0000⟩ = .ok .ack ∧
    (State.reset.withFetchWord 4 9).fetchWord = some ⟨.ustep, (9 : Fin 16)⟩ ∧
    (State.reset.withFetchWord 4 16).fetchWord = some ⟨.ustep, 16⟩ ∧
    decode 16 ⟨.ustep, 16⟩ = .rejected (.tooWide .ustep) ∧
    decode 16 ⟨.row, 0⟩ = .rejected .rowIsData ∧
    State.reset.params.dutyW = 16 ∧ decodeTableWord 8 1 = some .tick ∧
    decodeTableWord 24 0xFFFFF = some (.evtRsvd 3 3 65535) := by decide

/-- Where the first two clauses of the same statement meet: a `USTEP` word with an operation of its own names
that operation by its position too (R82). -/
theorem witness_StepRunsTheWordAtItsFetch_position :
    (State.reset.withFetchWord 4 8).fetchWord = some ⟨.ustep, (8 : Fin 16)⟩ ∧
    (decode 16 ⟨.ustep, 1⟩ = .ok .romRead ∧ microOp ⟨0, 4249, 1⟩ 1 = .romRead) ∧
    (decode 16 ⟨.ustep, 8⟩ = .ok .inc ∧ microOp ⟨0, 4249, 1⟩ 8 = .inc) ∧
    (decode 16 ⟨.ustep, 10⟩ = .ok (.ustepRsvd 10) ∧ microOp ⟨0, 4249, 1⟩ 10 = .ustepRsvd 10) ∧
    decode 16 ⟨.ustep, 15⟩ = .ok (.ustepRsvd 15) ∧ microOp ⟨0, 4249, 1⟩ 15 = .ustepRsvd 15 := by
  decide

theorem witness_StepTakesTheNextInput :
    (running 0).fetchWord = none ∧
    { running 0 with inputs := [.inWord true true, .turn] }.inputs = .inWord true true :: [.turn] ∧
    { running 0 with inputs := [.expire] }.inputs = .expire :: [] ∧
    { running 0 with inputs := [.build 65535 3] }.inputs = .build 65535 3 :: [] ∧
    65535 < 2 ^ (running 0).params.dutyW ∧ 2 ^ (running 0).params.dutyW ≤ 65536 := by decide

theorem witness_StepOfTheSequencer :
    (running 0).fetchWord = none ∧ nextInput (running 0) = .turn ∧ (running 0).mode = .run ∧
    (running 0).tickPos = 0 ∧ (running 0).tickPending = true ∧
    ¬((atPos 9).mode = .run ∧ (atPos 9).tickPos = 0 ∧ (atPos 9).tickPending = true) ∧
    (atPos 9).fetchWord = none ∧ nextInput (atPos 9) = .turn := by decide

theorem witness_TwoResetsReachTheSameState :
    (running 7).params = (atPos 9).params ∧ (running 7).maxDuty = (atPos 9).maxDuty ∧
    (running 7).pattern = (atPos 9).pattern ∧ (running 7).duty ≠ (atPos 9).duty := by decide

theorem witness_BuildEntersItsMode : 1 ≤ { stopped with maxDuty := 1 }.maxDuty := by decide

theorem witness_ZeroMaxDutyRaisesBeforeAnyTable :
    (Instr.buildBadpat true, (3 : Fin 4)) ∈ [(Instr.buildTp, (0 : Fin 4)), (.buildTz, 1),
      (.buildBadpat false, 2), (.buildBadpat true, 3)] ∧
    stopped.maxDuty = 0 ∧ 1 ≤ (running 0).maxDuty := by decide

theorem witness_MaxDutyOneIsLegal : Params.standard.trap = [] := rfl

theorem witness_TwoPhaseRowZero : 2 / 2 ≠ 0 ∧ (running 0).mode = .run := by decide

theorem witness_TwoPhaseRowsOneToFive : (running 0).mode = .run := rfl

/-- The table of V-DEC-8, put where the parameters list one. -/
def sevens : Table := ⟨⟨7, 7, 7⟩, ⟨0, 0, 0⟩, ⟨7, 7, 7⟩, ⟨0, 0, 0⟩, ⟨7, 7, 7⟩, ⟨0, 0, 0⟩⟩

theorem witness_TrapezoidalRows :
    (running 0).mode = .run ∧
    { Params.standard with trap := [(6, tpTable 6), (7, sevens)] }.trap = [(6, tpTable 6)] ++ (7, sevens) :: [] ∧
    (∀ e ∈ [(6, tpTable 6)], e.1 ≠ 7) ∧
    (∀ e ∈ { Params.standard with trap := [(6, tpTable 6), (7, sevens)] }.trap, e.1 ≠ 8) := by decide

theorem witness_EveryRomFieldIsAtMostMaxDuty :
    Params.standard.Admissible ∧ buildTable Params.standard 1 0 = some (tpTable 1) ∧
    { Params.standard with trap := [(7, sevens)] }.Admissible ∧
    buildTable { Params.standard with trap := [(7, sevens)] } 7 1 = some sevens :=
  ⟨standard_admissible, by decide, ⟨by decide, by decide, by decide, by decide⟩, by decide⟩

theorem witness_RomReadReadsTheRowAtThePhase :
    (running 6).mode = .run ∧ (running 6).table = some (tpTable 8499) := by decide

theorem witness_RomReadSelectsTheRomselRow : (atPos 1).Inv ∧ (atPos 1).mode = .run :=
  ⟨witness_inv 1, rfl⟩

theorem witness_NoOperationWritesTheRom :
    Instr.tick.reconstructs = false ∧ nextState? (exec .tick (running 0)) ≠ none ∧
    (running 0).fetchWord = none ∧ (nextInput (running 0)).reconstructs = false ∧
    nextState? (step (running 0)) ≠ none := by decide

theorem witness_IncAddsOneModuloTheWidth :
    (running 5).mode = .run ∧ (running 5).stepIndex = 5 ∧ 3 ≤ (running 5).params.idxW ∧
    (running (2 ^ 32 - 1)).stepIndex = 2 ^ (running 0).params.idxW - 1 := by decide

theorem witness_SetDutyWritesItsRegister : (running 0).mode = .run ∧ Channel.v ≠ .u := by decide

theorem witness_EnableDrivesTheChannel :
    (running 0).mode = .run ∧ (atPos 9).en.get .w = true ∧ (⟨1, 1, 1⟩ : Row).u ≠ 0 ∧ Channel.v ≠ .u := by
  decide

theorem witness_DisableFloatsTheChannel :
    (running 0).mode = .run ∧ (running 0).en.get .w = false ∧ (⟨0, 0, 0⟩ : Row).w = 0 ∧
    Channel.v ≠ .u := by decide

theorem witness_AckClearsThePendingTick : (atPos 9).mode = .run := rfl

theorem witness_LevelIsDutyNotZero : (running 0).mode = .run := rfl

theorem witness_TickAppliesAdvancesAcknowledges :
    (running (2 ^ 32 - 1)).mode = .run ∧ (running (2 ^ 32 - 1)).tickPos = 0 ∧
    (running (2 ^ 32 - 1)).tickPending = true ∧ (running (2 ^ 32 - 1)).table = some (tpTable 8499) := by
  decide

theorem witness_IdleAndUnacceptedTickChangeNothing :
    stopped.mode = .cfgError ∧ (atPos 9).tickPos ≠ 0 ∧ State.reset.tickPending = false := by decide

theorem witness_LevelsAfterATickForgetThePast :
    (running 3).mode = .run ∧ (running 3).tickPos = 0 ∧ (running 3).tickPending = true ∧
    (running 3).table = some (tpTable 8499) := by decide

theorem witness_TickDependsOnTheControlStateAlone :
    SameControl (running 0) { running 0 with duty := ⟨1, 2, 3⟩, row := ⟨4, 5, 6⟩ } ∧
    accepts (running 0) = true ∧ nextState? (exec .tick (running 0)) ≠ none ∧
    nextState? (exec .tick { running 0 with duty := ⟨1, 2, 3⟩, row := ⟨4, 5, 6⟩ }) ≠ none :=
  ⟨⟨rfl, rfl, rfl, rfl, rfl, rfl, rfl, rfl⟩, by decide, by decide, by decide⟩

theorem witness_StateAfterEachMicroStep :
    accepts (running 0) = true ∧ (running 0).fetchWord = none ∧ (running 0).inputs = [] ∧
    (running 0).table = some (tpTable 8499) := by decide

/-- Ten turns with an expiry before the first and inside the tick (P7). -/
def sched : List Input :=
  [.expire, .turn, .turn, .turn, .turn, .expire, .turn, .turn, .turn, .turn, .turn, .turn]

theorem witness_MicroStepsAreOneTickAndExpiriesAreLost :
    accepts { running 0 with inputs := sched ++ [.expire] } = true ∧
    (running 0).fetchWord = none ∧ (running 0).table = some (tpTable 8499) ∧
    (∀ e ∈ sched, e = .turn ∨ e = .expire) ∧ sched.count .turn = 10 ∧
    sched.getLast? = some .turn := by decide

theorem witness_AcceptedTickCompletes :
    (atPos 1).Inv ∧ (atPos 1).tickPos ≠ 0 ∧ (atPos 1).inputs = [] ∧ (atPos 9).Inv ∧
    (atPos 9).tickPos ≠ 0 ∧ (atPos 9).inputs = [] :=
  ⟨witness_inv 1, by decide, rfl, witness_inv 9, by decide, rfl⟩

theorem witness_NoTickBeginsInsideATick :
    (atPos 1).tickPos ≠ 0 ∧ (atPos 1).fetchWord = none ∧ nextState? (step (atPos 1)) ≠ none := by decide

theorem witness_AcknowledgeComesLast :
    (atPos 9).Inv ∧ nextInput (atPos 9) = .turn ∧ (atPos 9).tickPending = true ∧
    look (fun t => t.tickPending) (step (atPos 9)) = some false :=
  ⟨witness_inv 9, rfl, rfl, by decide⟩

theorem witness_CyclicAdvanceExactly :
    { atPos 0 with inputs := ticksProgram 2 }.Inv ∧ (atPos 0).mode = .run ∧ (atPos 0).tickPos = 0 ∧
    (atPos 0).table = some (tpTable 8499) :=
  ⟨witness_inv_inputs 0 _, rfl, rfl, rfl⟩

theorem witness_WrapIsSilent :
    (running (2 ^ 32 - 1)).stepIndex = 2 ^ (running 0).params.idxW - 1 ∧
    (running (2 ^ 32 - 1)).mode = .run ∧ (running (2 ^ 32 - 1)).tickPos = 0 ∧
    (running (2 ^ 32 - 1)).tickPending = true ∧ (running (2 ^ 32 - 1)).table = some (tpTable 8499) := by
  decide

theorem witness_WrapSkipsRows :
    1 ≤ { Params.standard with idxW := 3 }.idxW ∧ 3 % 2 ≠ 0 ∧
    { running 7 with params := { Params.standard with idxW := 3 } }.stepIndex = 2 ^ 3 - 1 ∧
    accepts { running 7 with params := { Params.standard with idxW := 3 } } = true ∧
    (running 7).table = some (tpTable 8499) ∧ accepts (running (2 ^ 32 - 1)) = true ∧
    (running (2 ^ 32 - 1)).stepIndex = 2 ^ (running 0).params.idxW - 1 := by decide

theorem witness_OutputsAreHeldBetweenTicks :
    { atPos 0 with tickPending := false, duty := ⟨0, 4249, 1⟩ }.tickPending = false ∧
    (atPos 0).fetchWord = none ∧ (atPos 0).inputs = [] ∧ (atPos 0).tickPos = 0 := by decide

theorem witness_EveryStepKeepsTheMachineLegal :
    (atPos 8).Inv ∧ nextState? (step (atPos 8)) ≠ none := ⟨witness_inv 8, by decide⟩

/-- Both outcomes: a next state, and the `BUILD` that has no hardware (V-BLD-19). -/
theorem witness_LegalMachineNeverStops :
    (atPos 0).Inv ∧ nextState? (step (atPos 0)) ≠ none ∧
    { atPos 0 with inputs := [.build 65536 0] }.Inv ∧
    step { atPos 0 with inputs := [.build 65536 0] } = .refused (.maxDutyNotRepresentable 65536) :=
  ⟨witness_inv 0, by decide, witness_inv_inputs 0 _, rfl⟩

theorem witness_TickIsTheOnlyMutator :
    (running 0).fetchWord = none ∧ (nextInput (running 0)).reconstructs = false ∧
    nextState? (step (running 0)) ≠ none ∧
    ¬(nextInput (running 0) = .inWord false true ∧ accepts (running 0) = true) ∧
    ¬(nextInput (running 0) = .turn ∧ (running 0).tickPos ≠ 0) := by decide

theorem witness_ConfigErrorStandsStill :
    stopped.mode = .cfgError ∧ stopped.fetchWord = none ∧
    (nextInput { stopped with inputs := [.expire] }).reconstructs = false ∧
    nextState? (step { stopped with inputs := [.expire] }) ≠ none := by decide

theorem witness_SequencerWritesTheRomFieldUnchanged :
    ((atPos 2).Inv ∧ nextInput (atPos 2) = .turn ∧ (atPos 2).tickPos = 2) ∧
    ((atPos 4).Inv ∧ nextInput (atPos 4) = .turn ∧ (atPos 4).tickPos = 4) ∧
    ((atPos 6).Inv ∧ nextInput (atPos 6) = .turn ∧ (atPos 6).tickPos = 6) :=
  ⟨⟨witness_inv 2, rfl, rfl⟩, ⟨witness_inv 4, rfl, rfl⟩, ⟨witness_inv 6, rfl, rfl⟩⟩

theorem witness_TwoPhaseTickTogglesTwoLevels :
    2 ≤ 2 ∧ toggleCount (enOfRow (tpTable 2).row0) (tpTable 2).row1 = 2 := by decide

end Sys2Proof.Tests
end

section
/-! The ROM (40_table_rom.md): the range of its fields (R102), and that nothing but a construction writes it
(R104). The frame lemmas say once for each shared operation that it leaves the table. -/

namespace Sys2Proof

/-- A row in range is in range at every channel (R102). -/
theorem Row.InRange.get {m : Nat} {r : Row} (h : Row.InRange m r) (c : Channel) : r.get c ≤ m := by
  obtain ⟨hu, hv, hw⟩ := h
  cases c with
  | u => exact hu
  | v => exact hv
  | w => exact hw

/-- Settles O21: a table that a construction built is in range, so each of its rows is, at each channel. -/
theorem everyRomFieldIsAtMostMaxDuty : Obligations.EveryRomFieldIsAtMostMaxDuty := by
  intro p m pat t hp hbuild a c
  have htable : Table.InRange m t := buildTable_inRange hp hbuild
  exact Row.InRange.get (htable.rowAt a) c

namespace Machine

/-! ### What leaves the table as it was -/

theorem whenRunning_table {f : State → State} (hf : ∀ s, (f s).table = s.table) (s : State) :
    (whenRunning f s).table = s.table := by
  unfold whenRunning
  split
  · exact hf s
  · rfl

@[simp] theorem selectRow_table (r : Row) (s : State) : (selectRow r s).table = s.table :=
  whenRunning_table (fun s => latchRow_table s r) s

@[simp] theorem tickBody_table (r : Row) (s : State) : (tickBody r s).table = s.table := by
  rw [tickBody_eq]

/-- `ROM_READ` reads the ROM and writes none of it (R119). -/
theorem execRomRead_table {s t : State} (h : execRomRead s = .next t) : t.table = s.table := by
  unfold execRomRead at h
  split at h
  · split at h
    · next r _ => cases h; exact latchRow_table s r
    · cases h
  · cases h; rfl

/-- `TICK` writes none of the ROM, accepted or not (R131). -/
theorem execTick_table {s t : State} (h : execTick s = .next t) : t.table = s.table := by
  unfold execTick at h
  split at h
  · split at h
    · next r _ => cases h; exact tickBody_table r s
    · cases h
  · cases h; rfl

/-- An operation that is neither `RESET` nor `BUILD` leaves the table (R104). -/
theorem exec_table {i : Instr} {s t : State} (hi : i.reconstructs = false) (h : exec i s = .next t) :
    t.table = s.table := by
  cases i with
  | reset _ | buildTp | buildTz | buildBadpat _ => cases hi
  | romRsvd _ _ | evtRsvd _ _ _ | ustepRsvd _ => cases h
  | tick => exact execTick_table h
  | idle => cases h; rfl
  | romRead => exact execRomRead_table h
  | tpStep0 | tpStep1 | tpStep2 | tpStep3 | tpStep4 | tpStep5
  | tzStep0 | tzStep1 | tzStep2 | tzStep3 | tzStep4 | tzStep5 => cases h; exact selectRow_table _ s
  | inc => cases h; exact whenRunning_table advanceIndex_table s
  | setDuty c v => cases h; exact whenRunning_table (fun s => writeDuty_table s c v) s
  | enable c => cases h; exact whenRunning_table (fun s => writeLevel_table s c true) s
  | disable c => cases h; exact whenRunning_table (fun s => writeLevel_table s c false) s
  | ack => cases h; exact whenRunning_table acknowledge_table s

/-- No turn of the sequencer writes the ROM (R104, R134). -/
theorem TurnCase.table {s t : State} (h : TurnCase s t) : t.table = s.table := by
  cases h <;> rfl

/-- A step whose input is neither a `RESET` nor a `BUILD` leaves the table (R104). -/
theorem StepCase.table {s t : State} (hn : (nextInput s).reconstructs = false) (h : StepCase s t) :
    t.table = s.table := by
  cases h with
  | turn _ ht => exact ht.table
  | expire _ => rfl
  | tick _ _ r _ => exact tickBody_table r (takeInput s)
  | wait _ _ => rfl
  | idle _ => rfl
  | reset _ hin => rw [hin] at hn; cases hn
  | build _ _ hin _ => rw [hin] at hn; cases hn

/-- Settles O25: by cases over the operations, and over what a step with no word at its fetch can do. -/
theorem noOperationWritesTheRom : Obligations.NoOperationWritesTheRom :=
  ⟨fun _ _ _ hi h => exec_table hi h, fun _ _ hf hn h => (step_cases hf h).table hn⟩

end Machine

end Sys2Proof
end

section
/-! The sequencer (41_sequencer_fsm.md): `INC` and the accepted `TICK` as equations between states (R131, R135),
the counter at the top of its range (R137), and the steps that change no architectural state but the timer's
(R147). -/

namespace Sys2Proof

/-- From the top of a `W`-bit range the counter goes to 0 (R137). -/
theorem addW_top (W : Nat) : addW W (2 ^ W - 1) 1 = 0 := by
  have hpos : 0 < 2 ^ W := Nat.two_pow_pos W
  rw [addW, Nat.sub_add_cancel hpos, Nat.mod_self]

/-- Inside a counter of at least three bits, 5 is followed by 6: no modulus of 6 is in the counter (R135). -/
theorem addW_five {W : Nat} (h : 3 ≤ W) : addW W 5 1 = 6 := by
  have hpow : 2 ^ 3 ≤ 2 ^ W := Nat.pow_le_pow_right (by decide) h
  exact addW_of_lt (by omega)

namespace Machine

/-! ### `INC` -/

theorem exec_inc_run {s : State} (hm : s.mode = .run) : exec .inc s = .next (advanceIndex s) :=
  congrArg Host.Outcome.next (whenRunning_run hm)

/-- Settles O26: `INC` in `RUN` is `advanceIndex`, whose counter is `addW` at 5 and at the top. -/
theorem incAddsOneModuloTheWidth : Obligations.IncAddsOneModuloTheWidth := by
  refine ⟨rfl, fun r => ⟨microOp_inc r, microOp_ack r⟩, fun s hm => ?_⟩
  have hinc := exec_inc_run hm
  refine ⟨hinc, fun h5 hw => ?_, fun htop => ?_⟩
  · have hsix : (advanceIndex s).stepIndex = 6 := by rw [advanceIndex_stepIndex, h5, addW_five hw]
    exact ⟨_, hinc, hsix, by rw [hsix]; rfl⟩
  · exact ⟨_, hinc, by rw [advanceIndex_stepIndex, htop, addW_top]⟩

/-! ### The accepted `TICK` -/

theorem currentRow_of_table {s : State} {t : Table} (ht : s.table = some t) :
    currentRow s = some (t.rowAt (phaseOf s.stepIndex)) := by
  rw [currentRow, ht, Option.map_some]

/-- An accepted `TICK` runs the body of the tick on the row at the phase (R131). -/
theorem exec_tick_accepted {s : State} {t : Table} (ha : accepts s = true) (ht : s.table = some t) :
    exec .tick s = .next (tickBody (t.rowAt (phaseOf s.stepIndex)) s) := by
  simp only [exec, execTick, ha, if_true, currentRow_of_table ht]

/-- Settles O32: the tick's body, whose whole effect is `tickBody_eq`; the latch it leaves is the row. -/
theorem tickAppliesAdvancesAcknowledges : Obligations.TickAppliesAdvancesAcknowledges := by
  refine ⟨rfl, fun s t r hm hp hpend ht hr => ⟨r, ?_⟩⟩
  have ha : accepts s = true := (accepts_iff s).mpr ⟨hm, hp, hpend⟩
  rw [exec_tick_accepted ha ht, ← hr, tickBody_eq]
  simp only [enOfRow, enOf, addW, tickEvents, ite_not]

/-! What a tick leaves of the configuration, and what it gives the registers (R131). -/

@[simp] theorem tickBody_cfgStatus (r : Row) (s : State) : (tickBody r s).cfgStatus = s.cfgStatus := by
  rw [tickBody_eq]

@[simp] theorem tickBody_mode (r : Row) (s : State) : (tickBody r s).mode = s.mode := by
  rw [tickBody_eq]

@[simp] theorem tickBody_duty (r : Row) (s : State) : (tickBody r s).duty = r := by
  rw [tickBody_eq]

@[simp] theorem tickBody_tickPending (r : Row) (s : State) : (tickBody r s).tickPending = false := by
  rw [tickBody_eq]

@[simp] theorem tickBody_stepIndex (r : Row) (s : State) :
    (tickBody r s).stepIndex = addW s.params.idxW s.stepIndex 1 := by
  rw [tickBody_eq]

/-- The tick at the top of the range leaves the counter at 0 (R137). -/
theorem tickBody_stepIndex_top {s : State} (htop : s.stepIndex = 2 ^ s.params.idxW - 1) (r : Row) :
    (tickBody r s).stepIndex = 0 := by
  rw [tickBody_stepIndex, htop, addW_top]

/-- Settles O42: both operations take the counter from the top to 0, and the tick's other effects are those of
every tick. -/
theorem wrapIsSilent : Obligations.WrapIsSilent := by
  intro s t htop hm
  refine ⟨⟨_, exec_inc_run hm, ?_⟩, fun hp hpend ht => ?_⟩
  · rw [advanceIndex_stepIndex, htop, addW_top]
  · have ha : accepts s = true := (accepts_iff s).mpr ⟨hm, hp, hpend⟩
    have hzero := tickBody_stepIndex_top htop (t.rowAt (phaseOf s.stepIndex))
    have hactive : (tickBody (t.rowAt (phaseOf s.stepIndex)) s).activeStep = some t.row0 := by
      rw [State.activeStep, currentRow_of_table ((tickBody_table _ s).trans ht), hzero]
      rfl
    refine ⟨_, exec_tick_accepted ha ht, hzero, hactive, rfl, tickBody_cfgStatus _ s, tickBody_mode _ s,
      tickBody_table _ s, tickBody_duty _ s, tickBody_tickPending _ s⟩

/-! ### What changes nothing but the timer's condition -/

theorem OnlyTimer.trans {s t u : State} (h : OnlyTimer s t) (h' : OnlyTimer t u) : OnlyTimer s u where
  duty := h'.duty.trans h.duty
  en := h'.en.trans h.en
  stepIndex := h'.stepIndex.trans h.stepIndex
  table := h'.table.trans h.table
  maxDuty := h'.maxDuty.trans h.maxDuty
  pattern := h'.pattern.trans h.pattern
  cfgStatus := h'.cfgStatus.trans h.cfgStatus
  mode := h'.mode.trans h.mode
  params := h'.params.trans h.params
  trace := h'.trace.trans h.trace
  pending hs := h'.pending (h.pending hs)

theorem onlyTimer_takeInput (s : State) : OnlyTimer s (takeInput s) := by
  constructor <;> simp

theorem onlyTimer_timerExpiry (s : State) : OnlyTimer s (timerExpiry s) := by
  constructor <;> simp

theorem onlyTimer_enterTick (s : State) : OnlyTimer s (enterTick s) := by
  constructor <;> simp

/-- In `CFG_ERROR`, and with no tick in progress, a turn performs no micro-operation: it accepts or stands still
(R194, R204). -/
theorem TurnCase.eq_of_idle {s t : State} (hs : s.mode = .cfgError ∨ s.tickPos = 0) (h : TurnCase s t) :
    t = enterTick s ∨ t = s := by
  have idle : s.mode = .run → s.tickPos = 0 := fun hm => hs.resolve_left (by simp [hm])
  cases h with
  | accept _ => exact .inl rfl
  | still _ => exact .inr rfl
  | read hm hp _ _ | inc hm hp | ack hm hp => exact absurd (hp.symm.trans (idle hm)) (by decide)
  | duty hm c q hc =>
    obtain ⟨-, hlo, -, -⟩ := microOp_duty (r := s.row) hc
    exact absurd hlo (by simp [idle hm])
  | level hm c q hc =>
    obtain ⟨-, hlo, -, -⟩ := microOp_level (r := s.row) hc
    exact absurd hlo (by simp [idle hm])

/-- A step that is no construction, no accepted `TICK` and no micro-operation changes nothing but the timer's
condition (R147). -/
theorem StepCase.onlyTimer {s t : State} (hn : (nextInput s).reconstructs = false)
    (htick : ¬(nextInput s = .inWord false true ∧ accepts s = true))
    (hturn : nextInput s = .turn → s.mode = .cfgError ∨ s.tickPos = 0) (h : StepCase s t) :
    OnlyTimer s t := by
  have htake := onlyTimer_takeInput s
  cases h with
  | turn hin ht =>
    have hidle : (takeInput s).mode = .cfgError ∨ (takeInput s).tickPos = 0 := hturn hin
    obtain rfl | rfl := ht.eq_of_idle hidle
    · exact htake.trans (onlyTimer_enterTick _)
    · exact htake
  | expire _ => exact htake.trans (onlyTimer_timerExpiry _)
  | tick hin ha _ _ => exact absurd ⟨hin, ha⟩ htick
  | wait _ _ | idle _ => exact htake
  | reset _ hin | build _ _ hin _ => rw [hin] at hn; cases hn

/-- Settles O48: `RESET` is the construction of `resetBlock_eq`, and every other step is one of `step_cases`. -/
theorem tickIsTheOnlyMutator : Obligations.TickIsTheOnlyMutator := by
  refine ⟨fun _ => rfl, fun s _ => ⟨resetBlock s, rfl, ?_⟩, fun s t hf hn h htick hturn => ?_⟩
  · rw [resetBlock_eq]
    exact ⟨rfl, rfl⟩
  · have hidle : nextInput s = .turn → s.tickPos = 0 := fun hin =>
      not_not.mp fun hp => hturn ⟨hin, hp⟩
    exact (step_cases hf h).onlyTimer hn htick fun hin => .inr (hidle hin)

end Machine

end Sys2Proof
end

section
/-! The enable decoder (42_enable_decoder.md): the level a duty decodes to (R160), the writes of one level
(R161, R162), and the levels a tick leaves (R164). -/

namespace Sys2Proof

/-- Writing the value a channel already has changes nothing. -/
theorem PerChannel.set_of_get_eq {α : Type} {c : Channel} {v : α} {x : PerChannel α} (h : x.get c = v) :
    x.set c v = x := by
  subst h
  cases c <;> rfl

/-- The levels of a row are read channel by channel (R164). -/
@[simp] theorem enOfRow_get (r : Row) (c : Channel) : (enOfRow r).get c = enOf (r.get c) := by
  cases c <;> rfl

theorem levelOp_of_ne_zero {d : Duty} (h : d ≠ 0) (c : Channel) : levelOp c d = .enable c :=
  if_neg h

@[simp] theorem levelOp_zero (c : Channel) : levelOp c 0 = .disable c := rfl

/-- The micro-operations at the level positions are the decoder's, of the row's fields (R82, R160). -/
theorem microOp_levelPositions (r : Row) :
    microOp r 3 = levelOp .u r.u ∧ microOp r 5 = levelOp .v r.v ∧ microOp r 7 = levelOp .w r.w :=
  ⟨rfl, rfl, rfl⟩

/-- The micro-operations at the duty positions write the row's fields (R82). -/
theorem microOp_dutyPositions (r : Row) :
    microOp r 2 = .setDuty .u r.u ∧ microOp r 4 = .setDuty .v r.v ∧ microOp r 6 = .setDuty .w r.w :=
  ⟨rfl, rfl, rfl⟩

namespace Machine

/-! ### The write of one level -/

/-- In `RUN` the decoder's operation writes the level of its duty (R160). -/
theorem exec_levelOp_run {s : State} (hm : s.mode = .run) (c : Channel) (d : Duty) :
    exec (levelOp c d) s = .next (writeLevel c (enOf d) s) := by
  rw [exec_levelOp, whenRunning_run hm]

theorem exec_enable_run {s : State} (hm : s.mode = .run) (c : Channel) :
    exec (.enable c) s = .next (writeLevel c true s) :=
  exec_levelOp_run hm c 1

theorem exec_disable_run {s : State} (hm : s.mode = .run) (c : Channel) :
    exec (.disable c) s = .next (writeLevel c false s) :=
  exec_levelOp_run hm c 0

/-- The whole effect of a level write: its own level, the other levels as they were, its event and nothing else;
it changes no level when the channel has the level already (R161, R162). -/
theorem writeLevel_effect (c : Channel) (b : Bool) (s : State) :
    (writeLevel c b s).en.get c = b ∧
    (∀ d, d ≠ c → (writeLevel c b s).en.get d = s.en.get d) ∧
    writeLevel c b s =
      { s with en := (writeLevel c b s).en, trace := s.trace ++ [if b then .enable c else .disable c] } ∧
    (s.en.get c = b → (writeLevel c b s).en = s.en) :=
  ⟨PerChannel.get_set_same c b s.en, fun _ hd => PerChannel.get_set_other hd b s.en, rfl,
    PerChannel.set_of_get_eq⟩

/-- Settles O28: in `RUN` the operation is the write of the level 1. -/
theorem enableDrivesTheChannel : Obligations.EnableDrivesTheChannel := by
  refine ⟨fun _ _ => rfl, ⟨rfl, rfl, rfl⟩, fun r => ?_, fun s c hm => ?_⟩
  · obtain ⟨hu, hv, hw⟩ := microOp_levelPositions r
    rw [hu, hv, hw]
    exact ⟨(levelOp_of_ne_zero · .u), (levelOp_of_ne_zero · .v), (levelOp_of_ne_zero · .w)⟩
  · exact ⟨_, exec_enable_run hm c, writeLevel_effect c true s⟩

/-- Settles O29: in `RUN` the operation is the write of the level 0; a zero field is written as a duty first. -/
theorem disableFloatsTheChannel : Obligations.DisableFloatsTheChannel := by
  refine ⟨fun _ _ => rfl, ⟨rfl, rfl, rfl⟩, fun r => ?_, fun s c hm => ?_⟩
  · obtain ⟨hu, hv, hw⟩ := microOp_levelPositions r
    obtain ⟨hdu, hdv, hdw⟩ := microOp_dutyPositions r
    rw [hu, hv, hw, hdu, hdv, hdw]
    refine ⟨fun h => ?_, fun h => ?_, fun h => ?_⟩ <;> simp [h]
  · exact ⟨_, exec_disable_run hm c, writeLevel_effect c false s⟩

/-- Settles O31: the level an operation of the decoder writes is `enOf` of its duty. -/
theorem levelIsDutyNotZero : Obligations.LevelIsDutyNotZero := by
  refine ⟨fun _ => enOf_eq_true, microOp_levelPositions, fun s c d hm => ?_⟩
  obtain ⟨hlevel, -, -, -⟩ := writeLevel_effect c (enOf d) s
  exact ⟨_, exec_levelOp_run hm c d, by rw [hlevel, enOf_eq_true]⟩

/-! ### The levels after a tick -/

@[simp] theorem tickBody_en (r : Row) (s : State) : (tickBody r s).en = enOfRow r := by
  rw [tickBody_eq]

/-- Settles O34: both ticks read the same row, and the levels and duties that the tick's body leaves are those of
the row alone. -/
theorem levelsAfterATickForgetThePast : Obligations.LevelsAfterATickForgetThePast := by
  intro s t duty en hm hp hpend ht
  have ha : accepts s = true := (accepts_iff s).mpr ⟨hm, hp, hpend⟩
  have hother : accepts { s with duty := duty, en := en } = true := ha
  refine ⟨_, _, exec_tick_accepted ha ht, exec_tick_accepted hother ht, fun c => ?_, ?_, ?_⟩
  · rw [tickBody_en, enOfRow_get]
  · rw [tickBody_en, tickBody_en]
  · rw [tickBody_duty, tickBody_duty]

end Machine

end Sys2Proof
end

section
/-! The duty output mux (43_duty_output_mux.md): the write of one duty register (R176). -/

namespace Sys2Proof

/-- The event word of `SET_DUTY` has `op` 0: the channel and the value alone stand in it (R81). -/
theorem encode_setDuty (W : Nat) (c : Channel) (v : Duty) :
    encode W (.setDuty c v) = ⟨.evt, c.code * 2 ^ W + v⟩ := by
  rw [encode, evtWord, Nat.zero_mul, Nat.zero_add]

namespace Machine

theorem exec_setDuty_run {s : State} (hm : s.mode = .run) (c : Channel) (v : Duty) :
    exec (.setDuty c v) s = .next (writeDuty c v s) :=
  congrArg Host.Outcome.next (whenRunning_run hm)

/-- The whole effect of a duty write: its own register, the other registers as they were, its event and nothing
else (R176). -/
theorem writeDuty_effect (c : Channel) (v : Duty) (s : State) :
    (writeDuty c v s).duty.get c = v ∧
    (∀ d, d ≠ c → (writeDuty c v s).duty.get d = s.duty.get d) ∧
    writeDuty c v s = { s with duty := (writeDuty c v s).duty, trace := s.trace ++ [.setDuty c v] } :=
  ⟨PerChannel.get_set_same c v s.duty, fun _ hd => PerChannel.get_set_other hd v s.duty, rfl⟩

/-- Settles O27: in `RUN` the operation is the write of the duty register. -/
theorem setDutyWritesItsRegister : Obligations.SetDutyWritesItsRegister :=
  ⟨encode_setDuty, microOp_dutyPositions,
    fun s c v hm => ⟨_, exec_setDuty_run hm c v, writeDuty_effect c v s⟩⟩

end Machine

end Sys2Proof
end

section
/-! Exceptions (60_exceptions.md): no nesting of ticks (R207). -/

namespace Sys2Proof.Machine

/-- The acceptance condition has the sequencer at a quiescent point (R204). -/
theorem accepts_of_inside {s : State} (hp : s.tickPos ≠ 0) : accepts s = false := by
  rw [Bool.eq_false_iff, Ne, accepts_iff]
  exact fun ⟨_, hquiet, _⟩ => hp hquiet

/-- A `TICK` word that is not accepted acts as `IDLE` (R76). -/
theorem exec_tick_rejected {s : State} (ha : accepts s = false) : exec .tick s = .next s := by
  simp [exec, execTick, ha]

@[simp] theorem tickBody_tickPos (r : Row) (s : State) : (tickBody r s).tickPos = 0 := by
  rw [tickBody_eq]

@[simp] theorem constructWith_tickPos (p : Fin 4) (s : State) : (constructWith p s).tickPos = 0 := by
  rw [constructWith, construct_eq]

@[simp] theorem resetBlock_tickPos (s : State) : (resetBlock s).tickPos = 0 := by
  rw [resetBlock_eq]

/-- The position after one inside a tick is not the first of a tick. -/
theorem pos_succ_ne_one {p q : Fin 16} (hlo : 1 ≤ p) (hq : p + 1 = q) : q ≠ 1 := by
  omega

/-- Inside a tick a turn stands still, moves on or ends the tick; it does not enter one (R134, R207). -/
theorem TurnCase.no_entry {s t : State} (hp : s.tickPos ≠ 0) (h : TurnCase s t) :
    t.tickPos ≠ 1 ∨ t.tickPos = s.tickPos := by
  cases h with
  | accept ha => exact absurd (accepts_of_inside hp) (by simp [ha])
  | still _ => exact .inr rfl
  | read _ _ _ _ => exact .inl (show (2 : Fin 16) ≠ 1 by decide)
  | duty _ _ _ hc =>
    obtain ⟨-, hlo, -, hq⟩ := microOp_duty (r := s.row) hc
    exact .inl (pos_succ_ne_one hlo hq)
  | level _ _ _ hc =>
    obtain ⟨-, hlo, -, hq⟩ := microOp_level (r := s.row) hc
    exact .inl (pos_succ_ne_one hlo hq)
  | inc _ _ => exact .inl (show (9 : Fin 16) ≠ 1 by decide)
  | ack _ _ => exact .inl (by simp)

/-- Inside a tick no input's step enters one (R207). -/
theorem StepCase.no_entry {s t : State} (hp : s.tickPos ≠ 0) (h : StepCase s t) :
    t.tickPos ≠ 1 ∨ t.tickPos = s.tickPos := by
  cases h with
  | turn _ ht => exact TurnCase.no_entry (s := takeInput s) hp ht
  | tick _ ha _ _ => exact absurd (accepts_of_inside hp) (by simp [ha])
  | expire _ | wait _ _ | idle _ => exact .inr rfl
  | reset _ _ => exact .inl (by simp)
  | build _ _ _ _ => exact .inl (by simp)

/-- Settles O39: a position inside a tick fails the acceptance condition, and with no acceptance no case of a
step goes to position 1. -/
theorem noTickBeginsInsideATick : Obligations.NoTickBeginsInsideATick := by
  intro s hp
  have ha := accepts_of_inside hp
  exact ⟨ha, exec_tick_rejected ha, fun _ hf h => (step_cases hf h).no_entry hp⟩

end Sys2Proof.Machine
end

section
/-! The encodings (30_encoding.md): decoding and encoding are inverse to each other, format by format; the fields
of an event word and of a ROM row's word. -/

namespace Sys2Proof

/-! ### Fields of a word -/

/-- What stands above `n` low bits. -/
theorem div_two_pow_of_low {n low : Nat} (hi : Nat) (hlow : low < 2 ^ n) : (hi * 2 ^ n + low) / 2 ^ n = hi := by
  rw [Nat.mul_comm, Nat.mul_add_div (Nat.two_pow_pos n), Nat.div_eq_of_lt hlow, Nat.add_zero]

/-- The field above `n` low bits is the number that stands there. -/
theorem bitField_above {n m hi low : Nat} (hlow : low < 2 ^ n) (hhi : hi < 2 ^ m) :
    bitField (hi * 2 ^ n + low) n m = hi := by
  rw [bitField, div_two_pow_of_low hi hlow, Nat.mod_eq_of_lt hhi]

/-- The lowest field is what stands below the multiples of its size. -/
theorem bitField_low {n hi low : Nat} (hlow : low < 2 ^ n) : bitField (hi * 2 ^ n + low) 0 n = low := by
  rw [bitField, Nat.pow_zero, Nat.div_one, Nat.mul_add_mod_self_right, Nat.mod_eq_of_lt hlow]

/-- A field in the middle does not depend on what stands above it. -/
theorem bitField_middle {n m top hi low : Nat} (hlow : low < 2 ^ n) (hhi : hi < 2 ^ m) :
    bitField (top * 2 ^ (n + m) + (hi * 2 ^ n + low)) n m = hi := by
  have hsum : top * 2 ^ (n + m) + (hi * 2 ^ n + low) = (top * 2 ^ m + hi) * 2 ^ n + low := by ring
  rw [hsum, bitField, div_two_pow_of_low _ hlow, Nat.mul_add_mod_self_right, Nat.mod_eq_of_lt hhi]

/-- Two adjacent fields are one number. -/
theorem adjacent_lt {n m hi low : Nat} (hlow : low < 2 ^ n) (hhi : hi < 2 ^ m) :
    hi * 2 ^ n + low < 2 ^ (n + m) := by
  calc hi * 2 ^ n + low < (hi + 1) * 2 ^ n := by rw [Nat.succ_mul]; omega
    _ ≤ 2 ^ m * 2 ^ n := Nat.mul_le_mul_right _ hhi
    _ = 2 ^ (n + m) := by rw [Nat.pow_add, Nat.mul_comm]

/-- Settles O6: the three fields are adjacent, `d_u` most significant. -/
theorem rowWordHoldsTheRow : Obligations.RowWordHoldsTheRow := by
  intro W r ⟨hu, hv, hw⟩
  have hvw : r.v * 2 ^ W + r.w < 2 ^ (2 * W) := (adjacent_lt hw hv).trans_eq (by rw [Nat.two_mul])
  have hsum : rowWord W r = r.u * 2 ^ (2 * W) + (r.v * 2 ^ W + r.w) := Nat.add_assoc _ _ _
  have hlow : rowWord W r = (r.u * 2 ^ W + r.v) * 2 ^ W + r.w := by rw [rowWord]; ring
  constructor
  · rw [rowOfWord]
    congr 1
    · rw [hsum, bitField_above hvw hu]
    · rw [hsum, Nat.two_mul, bitField_middle hw hv]
    · rw [hlow, bitField_low hw]
  · rw [hsum]
    exact (adjacent_lt hvw hu).trans_eq (by ring)

/-! ### Event words -/

/-- An event word in range decodes to what its three fields mean (R81). -/
theorem decode_evtWord {W op ch val : Nat} (ho : op < 4) (hc : ch < 4) (hv : val < 2 ^ W) :
    decode W (evtWord W op ch val) = .ok (decodeEvtFields op ch val) := by
  have hfits := Laws.WordFits.evt_word_fits ho hc hv
  have hsum : op * 2 ^ (W + 2) + ch * 2 ^ W + val = op * 2 ^ (W + 2) + (ch * 2 ^ W + val) :=
    Nat.add_assoc _ _ _
  have hlow : op * 2 ^ (W + 2) + ch * 2 ^ W + val = (op * 4 + ch) * 2 ^ W + val := by ring
  have hop : bitField (op * 2 ^ (W + 2) + ch * 2 ^ W + val) (W + 2) 2 = op := by
    rw [hsum, bitField_above (adjacent_lt hv hc) ho]
  have hch : bitField (op * 2 ^ (W + 2) + ch * 2 ^ W + val) W 2 = ch := by
    rw [hsum, bitField_middle hv hc]
  have hval : bitField (op * 2 ^ (W + 2) + ch * 2 ^ W + val) 0 W = val := by
    rw [hlow, bitField_low hv]
  rw [decode, if_pos hfits]
  simp only [evtWord, decodeEvt, hop, hch, hval]

/-- A number of `W + 4` bits is the event word of its three fields. -/
theorem evtWord_bitFields {W b : Nat} (hb : b < 2 ^ (W + 4)) :
    evtWord W (bitField b (W + 2) 2) (bitField b W 2) (bitField b 0 W) = ⟨.evt, b⟩ := by
  have htop : b / 2 ^ (W + 2) < 2 ^ 2 := by
    rw [Nat.div_lt_iff_lt_mul (Nat.two_pow_pos _), ← Nat.pow_add]
    exact hb.trans_eq (by congr 1; omega)
  have hsplit : b / 2 ^ (W + 2) = b / 2 ^ W / 2 ^ 2 := by rw [Nat.pow_add, Nat.div_div_eq_div_mul]
  simp only [evtWord, bitField, Nat.mod_eq_of_lt htop, Nat.pow_zero, Nat.div_one]
  congr 1
  calc b / 2 ^ (W + 2) * 2 ^ (W + 2) + b / 2 ^ W % 2 ^ 2 * 2 ^ W + b % 2 ^ W
      = (2 ^ 2 * (b / 2 ^ W / 2 ^ 2) + b / 2 ^ W % 2 ^ 2) * 2 ^ W + b % 2 ^ W := by rw [hsplit]; ring
    _ = b := by rw [Nat.div_add_mod, Nat.div_add_mod']

/-- A two-bit channel field names a channel or is 3 (R80). -/
theorem channel_field_cases (ch : Fin 4) : (∃ c : Channel, ch = Fin.ofNat 4 c.code) ∨ ch = 3 := by
  match ch with
  | 0 => exact .inl ⟨.u, rfl⟩
  | 1 => exact .inl ⟨.v, rfl⟩
  | 2 => exact .inl ⟨.w, rfl⟩
  | 3 => exact .inr rfl

theorem evtReserved_iff (op ch : Fin 4) (val : Duty) :
    evtReserved op ch val = true ↔
      (op = 3 ∧ ch ≠ 3) ∨ (op ≠ 3 ∧ ch = 3) ∨ (op ≠ 0 ∧ val ≠ 0) := by
  by_cases ho : op = 3 <;> by_cases hc : ch = 3 <;> simp [evtReserved, ho, hc]

/-- Only `SET_DUTY` words have a value: any other nonzero `val` is reserved (R89). -/
theorem decodeEvtFields_of_value {op ch : Fin 4} {val : Duty} (ho : op ≠ 0) (hv : val ≠ 0) :
    decodeEvtFields op ch val = .evtRsvd op ch val := by
  match op, ch with
  | 0, _ => exact absurd rfl ho
  | 1, 0 | 1, 1 | 1, 2 | 2, 0 | 2, 1 | 2, 2 | 3, 3 => exact if_neg hv
  | 1, 3 | 2, 3 | 3, 0 | 3, 1 | 3, 2 => rfl

/-- The decoder answers the reserved operation exactly at the fields of a reserved word (R89), and at every other
fields the event whose word they are. -/
theorem decodeEvtFields_cases (op ch : Fin 4) (val : Duty) :
    evtReserved op ch val = true ∧ decodeEvtFields op ch val = .evtRsvd op ch val ∨
    evtReserved op ch val = false ∧ ∃ e : Event, decodeEvtFields op ch val = e.instr ∧
      ∀ W, encode W e.instr = evtWord W op ch val ∧ (val < 2 ^ W → e.instr.wellFormed W = true) := by
  by_cases hx : op ≠ 0 ∧ val ≠ 0
  · obtain ⟨ho, hv⟩ := hx
    exact .inl ⟨by simp [evtReserved_iff, ho, hv], decodeEvtFields_of_value ho hv⟩
  have hzero : op ≠ 0 → val = 0 := fun ho => not_not.mp fun hv => hx ⟨ho, hv⟩
  obtain ⟨c, rfl⟩ | rfl := channel_field_cases ch
  · match op with
    | 0 => exact .inr ⟨by cases c <;> rfl, .setDuty c val, by cases c <;> rfl,
        fun W => ⟨by cases c <;> rfl, fun h => decide_eq_true h⟩⟩
    | 1 =>
      obtain rfl := hzero (by decide)
      exact .inr ⟨by cases c <;> rfl, .enable c, by cases c <;> rfl,
        fun W => ⟨by cases c <;> rfl, fun _ => rfl⟩⟩
    | 2 =>
      obtain rfl := hzero (by decide)
      exact .inr ⟨by cases c <;> rfl, .disable c, by cases c <;> rfl,
        fun W => ⟨by cases c <;> rfl, fun _ => rfl⟩⟩
    | 3 => exact .inl ⟨by cases c <;> rfl, by cases c <;> rfl⟩
  · match op with
    | 0 | 1 | 2 => exact .inl ⟨by simp [evtReserved_iff], rfl⟩
    | 3 =>
      obtain rfl := hzero (by decide)
      exact .inr ⟨rfl, .ack, rfl, fun W => ⟨rfl, fun _ => rfl⟩⟩

theorem decodeEvtFields_reserved {op ch : Fin 4} {val : Duty} (h : evtReserved op ch val = true) :
    decodeEvtFields op ch val = .evtRsvd op ch val := by
  obtain ⟨-, hd⟩ | ⟨hn, -⟩ := decodeEvtFields_cases op ch val
  · exact hd
  · rw [h] at hn; cases hn

/-- Settles O4: the decoder answers the reserved operation exactly at `evtReserved`. -/
theorem reservedEventWordsAreExactlyThoseListed : Obligations.ReservedEventWordsAreExactlyThoseListed := by
  intro W op ch val hv
  rw [decode_evtWord op.isLt ch.isLt hv, ← evtReserved_iff]
  refine ⟨fun h => ?_, fun h => by rw [decodeEvtFields_reserved h]⟩
  obtain ⟨hr, -⟩ | ⟨-, e, he, -⟩ := decodeEvtFields_cases op ch val
  · exact hr
  · rw [he] at h
    cases e <;> cases h

/-- The word of an event whose duty fits decodes to the operation it records (R81, R84). -/
theorem decode_encode_event {W : Nat} (e : Event) (h : e.instr.wellFormed W = true) :
    decode W (encode W e.instr) = .ok e.instr := by
  cases e with
  | setDuty c v =>
    rw [Event.instr, encode, decode_evtWord (by decide) (Laws.WordFits.code_lt c) (of_decide_eq_true h)]
    cases c <;> rfl
  | enable c =>
    rw [Event.instr, encode, decode_evtWord (by decide) (Laws.WordFits.code_lt c) (Nat.two_pow_pos W)]
    cases c <;> rfl
  | disable c =>
    rw [Event.instr, encode, decode_evtWord (by decide) (Laws.WordFits.code_lt c) (Nat.two_pow_pos W)]
    cases c <;> rfl
  | ack =>
    rw [Event.instr, encode, decode_evtWord (by decide) (by decide) (Nat.two_pow_pos W)]
    rfl

/-- The word of an event is an `EVT` word. -/
theorem encode_event (W : Nat) (e : Event) : encode W e.instr = ⟨.evt, e.word W⟩ := by
  cases e <;> rfl

/-- The level event of a duty has no operand to fit. -/
theorem wellFormed_levelEvent (W : Nat) (c : Channel) (d : Duty) :
    (if d = 0 then Event.disable c else Event.enable c).instr.wellFormed W = true := by
  split <;> rfl

theorem wellFormed_tickEvents {W : Nat} {r : Row} (h : r.Fits W) :
    ∀ e ∈ tickEvents r, e.instr.wellFormed W = true := by
  obtain ⟨hu, hv, hw⟩ := h
  simp only [tickEvents, List.forall_mem_cons, List.not_mem_nil, false_imp_iff, implies_true, and_true]
  exact ⟨decide_eq_true hu, wellFormed_levelEvent W .u _, decide_eq_true hv, wellFormed_levelEvent W .v _,
    decide_eq_true hw, wellFormed_levelEvent W .w _, rfl⟩

/-- Settles O7: every event of a tick is well-formed, so its word decodes to it. -/
theorem everyEventOfATickIsALegalWord : Obligations.EveryEventOfATickIsALegalWord := by
  refine fun W r h => ⟨rfl, fun e he => ?_⟩
  rw [← encode_event]
  exact decode_encode_event e (wellFormed_tickEvents h e he)

/-! ### The small formats -/

/-- The four small formats do not depend on the duty width (R75). -/
theorem decode_small {f : Format} (hf : f ∈ [Format.inp, .cfg, .romsel, .ustep]) (W b : Nat) :
    decode W ⟨f, b⟩ = decode 16 ⟨f, b⟩ := by
  cases f with
  | inp | cfg | romsel | ustep => rfl
  | row | evt => simp at hf

/-- A reserved selection decodes to itself (R124). -/
theorem decode_romRsvd (W : Nat) {p : Fin 4} {a : Fin 8} (h : romselReserved p a = true) :
    decode W (romselWord p a) = .ok (.romRsvd p a) := by
  have hall : ∀ p a, romselReserved p a = true → decode 16 (romselWord p a) = .ok (.romRsvd p a) := by
    decide
  exact (decode_small (by simp) W _).trans (hall p a h)

/-- A reserved position decodes to itself (R82). -/
theorem decode_ustepRsvd (W : Nat) {p : Fin 16} (h : ustepReserved p = true) :
    decode W ⟨.ustep, p⟩ = .ok (.ustepRsvd p) := by
  have hall : ∀ p : Fin 16, ustepReserved p = true → decode 16 ⟨.ustep, p⟩ = .ok (.ustepRsvd p) := by
    decide
  exact (decode_small (by simp) W _).trans (hall p h)

/-- Settles O2: by cases over the operations; the operand of each is read back from its field. -/
theorem decodeOfEncodeIsTheOperation : Obligations.DecodeOfEncodeIsTheOperation := by
  intro W i h
  cases i with
  | setDuty c v => exact decode_encode_event (.setDuty c v) h
  | enable c => exact decode_encode_event (.enable c) h
  | disable c => exact decode_encode_event (.disable c) h
  | ack => exact decode_encode_event .ack h
  | evtRsvd op ch v =>
    simp only [Instr.wellFormed, Bool.and_eq_true, decide_eq_true_eq] at h
    obtain ⟨hv, hr⟩ := h
    rw [encode, decode_evtWord op.isLt ch.isLt hv, decodeEvtFields_reserved hr]
  | romRsvd p a => exact decode_romRsvd W h
  | ustepRsvd p => exact decode_ustepRsvd W h
  | reset tickReq => exact Machine.decodeInWord W true tickReq
  | tick | idle | buildTp | buildTz | romRead | inc => rfl
  | buildBadpat low => cases low <;> rfl
  | tpStep0 | tpStep1 | tpStep2 | tpStep3 | tpStep4 | tpStep5 => rfl
  | tzStep0 | tzStep1 | tzStep2 | tzStep3 | tzStep4 | tzStep5 => rfl

theorem encode_decodeIn (W : Nat) (b : Fin 4) :
    encode W (decodeIn b) = ⟨.inp, b⟩ ∧ (decodeIn b).wellFormed W = true := by
  fin_cases b <;> exact ⟨rfl, rfl⟩

theorem encode_decodeCfg (W : Nat) (b : Fin 4) :
    encode W (decodeCfg b) = ⟨.cfg, b⟩ ∧ (decodeCfg b).wellFormed W = true := by
  fin_cases b <;> exact ⟨rfl, rfl⟩

theorem encode_decodeRomsel (W : Nat) (b : Fin 32) :
    encode W (decodeRomsel b) = ⟨.romsel, b⟩ ∧ (decodeRomsel b).wellFormed W = true := by
  fin_cases b <;> exact ⟨rfl, rfl⟩

/-- The decoder answers an operation at the positions of the read, of `INC` and at the reserved ones (R88). -/
theorem encode_decodeUstep (W : Nat) {b : Fin 16} {i : Instr} (h : decodeUstep b = .ok i) :
    encode W i = ⟨.ustep, b⟩ ∧ i.wellFormed W = true := by
  fin_cases b <;> cases h <;> exact ⟨rfl, rfl⟩

/-- An event word decodes to an operation whose word it is (R81, R89). -/
theorem encode_decodeEvt {W b : Nat} (hb : b < 2 ^ (W + 4)) :
    encode W (decodeEvt W b) = ⟨.evt, b⟩ ∧ (decodeEvt W b).wellFormed W = true := by
  have hop : bitField b (W + 2) 2 < 4 := Nat.mod_lt _ (by decide)
  have hch : bitField b W 2 < 4 := Nat.mod_lt _ (by decide)
  have hval : bitField b 0 W < 2 ^ W := Nat.mod_lt _ (Nat.two_pow_pos W)
  have hword := evtWord_bitFields hb
  obtain ⟨hr, hd⟩ | ⟨-, e, hd, he⟩ := decodeEvtFields_cases ⟨_, hop⟩ ⟨_, hch⟩ (bitField b 0 W)
  · rw [decodeEvt, hd]
    refine ⟨hword, ?_⟩
    rw [Instr.wellFormed, hr, decide_eq_true hval]
    rfl
  · obtain ⟨hencode, hwf⟩ := he W
    rw [decodeEvt, hd]
    exact ⟨hencode.trans hword, hwf hval⟩

/-- A word the decoder accepts fits its format (R75). -/
theorem lt_of_decode_ok {W : Nat} {w : OpWord} {i : Instr} (h : decode W w = .ok i) :
    w.bits < 2 ^ w.fmt.width W := by
  by_contra hw
  rw [decode, if_neg hw] at h
  cases h

/-- Settles O3: by cases over the formats. -/
theorem encodeOfDecodeIsTheWord : Obligations.EncodeOfDecodeIsTheWord := by
  intro W ⟨f, b⟩ i h
  have hb := lt_of_decode_ok h
  rw [decode, if_pos hb] at h
  cases f with
  | inp => cases h; exact encode_decodeIn W ⟨b, hb⟩
  | cfg => cases h; exact encode_decodeCfg W ⟨b, hb⟩
  | romsel => cases h; exact encode_decodeRomsel W ⟨b, hb⟩
  | row => cases h
  | ustep => exact encode_decodeUstep W (b := ⟨b, hb⟩) h
  | evt => cases h; exact encode_decodeEvt hb

/-- Settles O1: fixed words. -/
theorem wordsDecodeAsTheSpecWritesThem : Obligations.WordsDecodeAsTheSpecWritesThem := by
  unfold Obligations.WordsDecodeAsTheSpecWritesThem
  decide

/-- Settles O5: every word of the four formats, each of at most five bits. -/
theorem smallFormatsMatchTheOpcodeTable : Obligations.SmallFormatsMatchTheOpcodeTable := by
  have hall : ∀ f ∈ [Format.inp, .cfg, .romsel, .ustep], ∀ b < 2 ^ f.width 16,
      ∀ i ∈ (decode 16 ⟨f, b⟩).instr?, b &&& i.tableMask = i.tableMatch := by decide
  intro f hf b hb i hd
  exact hall f hf b hb i (by rw [hd]; rfl)

end Sys2Proof
end

section
/-! The invariant (10_state.md sections 2 to 9): it holds at reset, and every step keeps it, one lemma for each
thing a step can do. -/

namespace Sys2Proof

/-- The position at which a channel's duty is written (R82). -/
def Channel.dutyPos : Channel → Fin 16
  | .u => 2
  | .v => 4
  | .w => 6

/-- The position at which a channel's level is written: the one after its duty (R82). -/
def Channel.levelPos : Channel → Fin 16
  | .u => 3
  | .v => 5
  | .w => 7

/-- Between a channel's duty write and its level write no other channel is written (R177). -/
theorem Channel.writes_before_levelPos (c d : Channel) :
    (d.dutyPos < c.levelPos → d = c ∨ d.dutyPos < c.dutyPos) ∧
    (d.levelPos < c.levelPos → d.levelPos < c.dutyPos) := by
  cases c <;> cases d <;> decide

/-- Between a channel's level write and the next position no other channel is written (R177). -/
theorem Channel.writes_after_levelPos (c d : Channel) :
    (d.dutyPos < c.levelPos + 1 → d.dutyPos < c.levelPos) ∧
    (d.levelPos < c.levelPos + 1 → d = c ∨ d.levelPos < c.levelPos) := by
  cases c <;> cases d <;> decide

/-- The positions a duty write goes from and to (R82). -/
theorem duty_positions {c : Channel} {p q : Fin 16}
    (h : (c, p, q) ∈ [(Channel.u, (2 : Fin 16), (3 : Fin 16)), (.v, 4, 5), (.w, 6, 7)]) :
    p = c.dutyPos ∧ q = c.levelPos := by
  simp only [List.mem_cons, Prod.mk.injEq, List.not_mem_nil, or_false] at h
  obtain ⟨rfl, rfl, rfl⟩ | ⟨rfl, rfl, rfl⟩ | ⟨rfl, rfl, rfl⟩ := h <;> exact ⟨rfl, rfl⟩

/-- The positions a level write goes from and to (R82). -/
theorem level_positions {c : Channel} {p q : Fin 16}
    (h : (c, p, q) ∈ [(Channel.u, (3 : Fin 16), (4 : Fin 16)), (.v, 5, 6), (.w, 7, 8)]) :
    p = c.levelPos ∧ q = c.levelPos + 1 := by
  simp only [List.mem_cons, Prod.mk.injEq, List.not_mem_nil, or_false] at h
  obtain ⟨rfl, rfl, rfl⟩ | ⟨rfl, rfl, rfl⟩ | ⟨rfl, rfl, rfl⟩ := h <;> exact ⟨rfl, rfl⟩

/-- A row in range of a `MAX_DUTY` that fits has fields that fit (R11, R102). -/
theorem Row.InRange.fits {m W : Nat} {r : Row} (h : Row.InRange m r) (hm : m < 2 ^ W) : r.Fits W := by
  obtain ⟨hu, hv, hw⟩ := h
  exact ⟨hu.trans_lt hm, hv.trans_lt hm, hw.trans_lt hm⟩

/-- A triple that fits still does when a field that fits is written. -/
theorem PerChannel.Fits.set_get {W : Nat} {x y : PerChannel Duty} (hx : x.Fits W) (hy : y.Fits W)
    (c : Channel) : (x.set c (y.get c)).Fits W := by
  obtain ⟨hxu, hxv, hxw⟩ := hx
  obtain ⟨hyu, hyv, hyw⟩ := hy
  cases c with
  | u => exact ⟨hyu, hxv, hxw⟩
  | v => exact ⟨hxu, hyv, hxw⟩
  | w => exact ⟨hxu, hxv, hyw⟩

namespace Machine

/-! ### What a tick has applied, channel by channel -/

theorem State.applied_iff (s : State) :
    s.Applied ↔ ∀ c, (c.dutyPos < s.tickPos → s.duty.get c = s.row.get c) ∧
      (c.levelPos < s.tickPos → s.en.get c = enOf (s.row.get c)) := by
  constructor
  · rintro ⟨hdu, hlu, hdv, hlv, hdw, hlw⟩ c
    cases c with
    | u => exact ⟨hdu, hlu⟩
    | v => exact ⟨hdv, hlv⟩
    | w => exact ⟨hdw, hlw⟩
  · intro h
    obtain ⟨hdu, hlu⟩ := h .u
    obtain ⟨hdv, hlv⟩ := h .v
    obtain ⟨hdw, hlw⟩ := h .w
    exact ⟨hdu, hlu, hdv, hlv, hdw, hlw⟩

/-- Up to position 2 of a tick no channel has been written. -/
theorem State.applied_of_le_two {s : State} (h : s.tickPos ≤ 2) : s.Applied := by
  constructor <;> intro _ <;> omega

/-- Up to position 1 of a tick no row has been read. -/
theorem State.rowHeld_of_le_one {s : State} (h : s.tickPos ≤ 1) : s.RowHeld := by
  constructor <;> intro _ <;> omega

theorem State.Applied.writeDuty {s : State} {c : Channel} (h : s.Applied) (hp : s.tickPos = c.dutyPos) :
    State.Applied { writeDuty c (s.row.get c) s with tickPos := c.levelPos } := by
  rw [State.applied_iff] at h ⊢
  intro d
  obtain ⟨hduty, hlevel⟩ := h d
  obtain ⟨hpd, hpl⟩ := Channel.writes_before_levelPos c d
  rw [hp] at hduty hlevel
  refine ⟨fun hd => ?_, fun hd => hlevel (hpl hd)⟩
  by_cases hc : d = c
  · subst hc; exact PerChannel.get_set_same _ _ _
  · exact (PerChannel.get_set_other hc _ _).trans (hduty ((hpd hd).resolve_left hc))

theorem State.Applied.writeLevel {s : State} {c : Channel} (h : s.Applied) (hp : s.tickPos = c.levelPos) :
    State.Applied { writeLevel c (enOf (s.row.get c)) s with tickPos := c.levelPos + 1 } := by
  rw [State.applied_iff] at h ⊢
  intro d
  obtain ⟨hduty, hlevel⟩ := h d
  obtain ⟨hpd, hpl⟩ := Channel.writes_after_levelPos c d
  rw [hp] at hduty hlevel
  refine ⟨fun hd => hduty (hpd hd), fun hd => ?_⟩
  by_cases hc : d = c
  · subst hc; exact PerChannel.get_set_same _ _ _
  · exact (PerChannel.get_set_other hc _ _).trans (hlevel ((hpl hd).resolve_left hc))

/-- Past position 7 all six registers hold what the row gives (R134). -/
theorem State.Applied.all {s : State} (h : s.Applied) (hp : 8 ≤ s.tickPos) :
    s.duty = s.row ∧ s.en = enOfRow s.row := by
  rw [State.applied_iff] at h
  have hduty (c : Channel) : c.dutyPos < 8 := by cases c <;> decide
  have hlevel (c : Channel) : c.levelPos < 8 := by cases c <;> decide
  refine ⟨PerChannel.ext_get fun c => ?_, PerChannel.ext_get fun c => ?_⟩ <;> obtain ⟨hd, hl⟩ := h c
  · exact hd ((hduty c).trans_le hp)
  · rw [enOfRow_get, hl ((hlevel c).trans_le hp)]

namespace State.Inv

variable {s : State}

/-! ### What the invariant says of the row -/

theorem currentRow_inRange (h : s.Inv) {r : Row} (hr : currentRow s = some r) :
    Row.InRange s.maxDuty r := by
  obtain ⟨t, ht, rfl⟩ := currentRow_eq_some hr
  exact (buildTable_inRange h.params_ok (h.table_eq.symm.trans ht)).rowAt _

theorem currentRow_fits (h : s.Inv) {r : Row} (hr : currentRow s = some r) : r.Fits s.params.dutyW :=
  (h.currentRow_inRange hr).fits h.max_fits

/-- In `RUN` a table exists (R32). -/
theorem exists_table (h : s.Inv) (hm : s.mode = .run) : ∃ t, s.table = some t := by
  rw [h.table_eq, ← Option.isSome_iff_exists, buildTable_isSome, ← h.status_eq]
  exact h.mode_eq.mp hm

/-! ### The steps that do not move a tick on -/

theorem takeInput (h : s.Inv) : (takeInput s).Inv :=
  { h with row_held := { h.row_held with }, applied := { h.applied with } }

theorem timerExpiry (h : s.Inv) : (timerExpiry s).Inv :=
  { h with
    busy_pending := fun hp => ⟨rfl, (h.busy_pending hp).2⟩
    row_held := { h.row_held with }
    applied := { h.applied with } }

theorem enterTick (h : s.Inv) (ha : accepts s = true) : (enterTick s).Inv := by
  obtain ⟨hm, -, hpend⟩ := (accepts_iff s).mp ha
  exact { h with
    pos_legal := by simp
    busy_pending := fun _ => ⟨hpend, hm⟩
    row_held := rowHeld_of_le_one (by simp)
    applied := applied_of_le_two (by simp) }

/-! ### Construction -/

/-- A construction reaches a legal state from any constants and duties that fit, inside a tick too (R100). -/
theorem of_construct (hp : s.params.Admissible) (hm : s.maxDuty < 2 ^ s.params.dutyW)
    (hd : s.duty.Fits s.params.dutyW) (hw : s.fetchWord = none) : (construct s).Inv := by
  rw [construct_eq]
  exact {
    params_ok := hp
    max_fits := hm
    status_eq := rfl
    table_eq := rfl
    mode_eq := by simp
    index_fits := Nat.two_pow_pos _
    duty_fits := hd
    pos_legal := Fin.zero_le _
    busy_pending := fun h => absurd rfl h
    error_parked := fun _ => rfl
    row_held := rowHeld_of_le_one (Fin.zero_le _)
    applied := applied_of_le_two (Fin.zero_le _)
    no_word := hw }

theorem resetChannels (h : s.Inv) (hp : s.tickPos = 0) : (resetChannels s).Inv :=
  { h with
    duty_fits := h.params_ok.reset_fits
    row_held := { h.row_held with }
    applied := applied_of_le_two (by simp [hp]) }

theorem resetBlock (h : s.Inv) : (resetBlock s).Inv :=
  (of_construct (s := { s with tickPos := 0 }) h.params_ok h.max_fits h.duty_fits h.no_word).resetChannels
    (by simp [construct_eq])

theorem build (h : s.Inv) {m : Nat} (hm : m < 2 ^ s.params.dutyW) (p : Fin 4) :
    (constructWith p { s with maxDuty := m }).Inv :=
  of_construct h.params_ok hm h.duty_fits h.no_word

/-! ### The tick -/

theorem tickBody (h : s.Inv) (hm : s.mode = .run) {r : Row} (hr : currentRow s = some r) :
    (tickBody r s).Inv := by
  rw [tickBody_eq]
  exact { h with
    index_fits := addW_lt _ _ _
    duty_fits := h.currentRow_fits hr
    pos_legal := Fin.zero_le _
    busy_pending := fun h => absurd rfl h
    error_parked := fun herr => absurd (hm.symm.trans herr) (by decide)
    row_held := rowHeld_of_le_one (Fin.zero_le _)
    applied := applied_of_le_two (Fin.zero_le _) }

theorem read (h : s.Inv) (hp : s.tickPos = 1) {r : Row} (hr : currentRow s = some r) :
    Inv { s with row := r, tickPos := 2 } :=
  { h with
    pos_legal := by simp
    busy_pending := fun _ => h.busy_pending (by simp [hp])
    row_held := ⟨fun _ _ => hr, fun h9 => absurd h9 (by simp)⟩
    applied := applied_of_le_two (by simp) }

theorem writeDuty (h : s.Inv) {c : Channel} (hp : s.tickPos = c.dutyPos) :
    Inv { writeDuty c (s.row.get c) s with tickPos := c.levelPos } := by
  have hpos : 2 ≤ s.tickPos ∧ s.tickPos ≤ 6 ∧ 2 ≤ c.levelPos ∧ c.levelPos ≤ 7 := by
    rw [hp]; cases c <;> decide
  obtain ⟨hlo, hhi, hlo', hhi'⟩ := hpos
  have hrow : currentRow s = some s.row := h.row_held.before_inc hlo (by omega)
  exact { h with
    duty_fits := h.duty_fits.set_get (h.currentRow_fits hrow) c
    pos_legal := show c.levelPos ≤ 9 by omega
    busy_pending := fun _ => h.busy_pending (by omega)
    row_held := ⟨fun _ _ => hrow, fun h9 => absurd (show c.levelPos = 9 from h9) (by omega)⟩
    applied := h.applied.writeDuty hp }

theorem writeLevel (h : s.Inv) {c : Channel} (hp : s.tickPos = c.levelPos) :
    Inv { writeLevel c (enOf (s.row.get c)) s with tickPos := c.levelPos + 1 } := by
  have hpos : 2 ≤ s.tickPos ∧ s.tickPos ≤ 7 ∧ c.levelPos + 1 ≤ 8 := by rw [hp]; cases c <;> decide
  obtain ⟨hlo, hhi, hhi'⟩ := hpos
  have hrow : currentRow s = some s.row := h.row_held.before_inc hlo (by omega)
  exact { h with
    pos_legal := show c.levelPos + 1 ≤ 9 by omega
    busy_pending := fun _ => h.busy_pending (by omega)
    row_held := ⟨fun _ _ => hrow, fun h9 => absurd (show c.levelPos + 1 = 9 from h9) (by omega)⟩
    applied := h.applied.writeLevel hp }

theorem advanceIndex (h : s.Inv) (hp : s.tickPos = 8) : Inv { advanceIndex s with tickPos := 9 } := by
  obtain ⟨hpend, hm⟩ := h.busy_pending (by simp [hp])
  obtain ⟨t, ht, hrow⟩ := currentRow_eq_some (h.row_held.before_inc (by simp [hp]) (by simp [hp]))
  obtain ⟨hduty, hlevel⟩ := h.applied.all (by simp [hp])
  exact { h with
    index_fits := addW_lt _ _ _
    pos_legal := by simp
    busy_pending := fun _ => ⟨hpend, hm⟩
    error_parked := fun herr => absurd (hm.symm.trans herr) (by decide)
    row_held := ⟨fun _ h8 => absurd h8 (by simp), fun _ => ⟨s.stepIndex, t, h.index_fits, ht, rfl, hrow⟩⟩
    applied := (applied_iff _).mpr fun c =>
      ⟨fun _ => congrArg (PerChannel.get c) hduty,
        fun _ => (congrArg (PerChannel.get c) hlevel).trans (enOfRow_get _ c)⟩ }

theorem acknowledge (h : s.Inv) : (acknowledge s).Inv :=
  { h with
    pos_legal := Fin.zero_le _
    busy_pending := fun h => absurd rfl h
    row_held := rowHeld_of_le_one (Fin.zero_le _)
    applied := applied_of_le_two (Fin.zero_le _) }

end State.Inv

/-! ### Every step -/

/-- Every turn of the sequencer keeps the machine legal. -/
theorem TurnCase.inv {s t : State} (h : s.Inv) (ht : TurnCase s t) : t.Inv := by
  cases ht with
  | accept ha => exact h.enterTick ha
  | still _ => exact h
  | read _ hp r hr => exact h.read hp hr
  | duty _ c q hc =>
    obtain ⟨hp, rfl⟩ := duty_positions hc
    exact h.writeDuty hp
  | level _ c q hc =>
    obtain ⟨hp, rfl⟩ := level_positions hc
    exact h.writeLevel hp
  | inc _ hp => exact h.advanceIndex hp
  | ack _ _ => exact h.acknowledge

theorem StepCase.inv {s t : State} (h : s.Inv) (ht : StepCase s t) : t.Inv := by
  cases ht with
  | turn _ ht => exact ht.inv h.takeInput
  | expire _ => exact h.takeInput.timerExpiry
  | reset _ _ => exact h.takeInput.resetBlock
  | tick _ ha r hr =>
    obtain ⟨hm, -, -⟩ := (accepts_iff s).mp ha
    exact h.takeInput.tickBody hm hr
  | wait _ _ | idle _ => exact h.takeInput
  | build _ p _ hm => exact h.takeInput.build hm p

/-- Settles O46: by cases over what a step with no word at its fetch can do. -/
theorem everyStepKeepsTheMachineLegal : Obligations.EveryStepKeepsTheMachineLegal :=
  fun _ _ h hstep => (step_cases h.no_word hstep).inv h

/-- Settles O45: the reset state holds what a construction of its own constants reaches. -/
theorem resetStateIsLegal : Obligations.ResetStateIsLegal := by
  have hp : Params.standard.Admissible := ⟨by decide, by decide, by decide, by decide⟩
  have hreset : construct State.reset = State.reset := by decide
  have h : (construct State.reset).Inv := State.Inv.of_construct hp (by decide) (by decide) rfl
  rwa [hreset] at h

end Machine
end Sys2Proof
end

section
/-! What a step runs (30_encoding.md section 1): the word at its fetch, the outside's next input, or the
sequencer's own move; and the two operations that change nothing. -/

namespace Sys2Proof

/-- The decoder rejects exactly the numbers too wide for their format and the `ROW` words (R75, R88). -/
theorem decode_rejected_iff (W : Nat) (w : OpWord) :
    (2 ^ w.fmt.width W ≤ w.bits ∨ w.fmt = .row) ↔ ∃ e, decode W w = .rejected e := by
  obtain ⟨f, b⟩ := w
  by_cases hb : b < 2 ^ f.width W
  · have hd : decode W ⟨f, b⟩ = _ := if_pos hb
    rw [hd, or_iff_right (Nat.not_le.mpr hb)]
    cases f with
    | row => exact ⟨fun _ => ⟨_, rfl⟩, fun _ => rfl⟩
    | inp | cfg | romsel | evt => simp
    | ustep =>
      simp only [reduceCtorEq, false_iff, not_exists, decodeUstep]
      intro e
      split <;> simp
  · have hd : decode W ⟨f, b⟩ = .rejected (.tooWide f) := if_neg hb
    exact ⟨fun _ => ⟨_, hd⟩, fun _ => .inl (Nat.not_lt.mp hb)⟩

theorem decode_of_decodeTableWord {nbits w : Nat} {i : Instr} (h : decodeTableWord nbits w = some i) :
    decode 16 (tableWord nbits w) = .ok i := by
  unfold decodeTableWord at h
  cases hd : decode 16 (tableWord nbits w) with
  | ok j => rw [hd] at h; cases h; rfl
  | atPosition p => rw [hd] at h; cases h
  | rejected e => rw [hd] at h; cases h

namespace Machine

/-- Settles O8: the three answers of the decoder, and the word that `withFetchWord` places. -/
theorem stepRunsTheWordAtItsFetch : Obligations.StepRunsTheWordAtItsFetch := by
  refine ⟨fun _ _ _ => step_of_word, fun _ _ => step_of_position, fun s w => decode_rejected_iff _ w,
    fun _ _ _ => step_of_rejected, fun s nbits w i hW ht => ?_⟩
  have hd : decode s.params.dutyW (tableWord nbits w) = .ok i := by
    rw [hW]
    exact decode_of_decodeTableWord ht
  rw [State.withFetchWord, step_of_word (s := placeWord (tableWord nbits w) s) rfl hd]
  simp only [placeWord, hd, Decoded.ok.injEq]

/-! ### The outside's next input -/

theorem step_of_next_input {s : State} {e : Input} {rest : List Input} (hf : s.fetchWord = none)
    (h : s.inputs = e :: rest) : step s = present e { s with inputs := rest } := by
  rw [step_of_input hf, nextInput, takeInput, h]
  rfl

/-- An `IN` word runs the operation of R76's table. -/
theorem present_inWord (rst tickReq : Bool) (s : State) :
    present (.inWord rst tickReq) s =
      exec (if rst then .reset tickReq else if tickReq then .tick else .idle) s := by
  simp only [present, runWord, decodeInWord]

/-- A `CFG` word's operation is the construction of its pattern (R106). -/
theorem exec_decodeCfg (p : Fin 4) (s : State) : exec (decodeCfg p) s = .next (constructWith p s) := by
  match p with
  | 0 | 1 | 2 | 3 => rfl

/-- Settles O9: by cases over the input. -/
theorem stepTakesTheNextInput : Obligations.StepTakesTheNextInput := by
  refine fun s rest hf => ⟨fun rst tickReq hin => ?_, fun hin => ?_, fun m p hin hm => ?_,
    fun m p hin hm => ?_⟩
  · rw [step_of_next_input hf hin, present_inWord]
  · rw [step_of_next_input hf hin]
    rfl
  · rw [step_of_next_input hf hin, present_build, if_pos hm, exec_decodeCfg]
  · rw [step_of_next_input hf hin, present_build, if_neg (Nat.not_lt.mpr hm)]

/-! ### The sequencer's own move -/

theorem step_of_turn {s : State} (hf : s.fetchWord = none) (hn : nextInput s = .turn) :
    step s = turn (takeInput s) := by
  rw [step_of_input hf, hn, present_turn]

theorem turn_of_not_accepts {s : State} (h : accepts s = false) :
    turn s = mapNext advancePos (exec (microOp s.row s.tickPos) s) := by
  simp [turn, h]

/-- Settles O10: a turn is the acceptance or the micro-operation. -/
theorem stepOfTheSequencer : Obligations.StepOfTheSequencer := by
  refine fun s hf hn => ⟨fun hm hp hpend => ?_, fun hno => ?_⟩ <;> rw [step_of_turn hf hn]
  · exact turn_accept ((accepts_iff s).mpr ⟨hm, hp, hpend⟩)
  · exact turn_of_not_accepts (s := takeInput s) (Bool.eq_false_iff.mpr fun ha => hno ((accepts_iff s).mp ha))

/-- Settles O11: R82's table. -/
theorem microOperationAtEachPosition : Obligations.MicroOperationAtEachPosition := by
  intro r
  obtain ⟨hdu, hdv, hdw⟩ := microOp_dutyPositions r
  obtain ⟨hlu, hlv, hlw⟩ := microOp_levelPositions r
  simp only [levelOp, ← ite_not (_ = 0)] at hlu hlv hlw
  exact ⟨rfl, rfl, hdu, hlu, hdv, hlv, hdw, hlw, rfl, rfl, fun _ => microOp_reserved⟩

/-- Settles O24: each reserved operation is a refusal. -/
theorem reservedWordsAreRefused : Obligations.ReservedWordsAreRefused :=
  fun _ => ⟨fun _ _ => rfl, fun _ _ _ => rfl, fun _ => rfl⟩

/-! ### `IDLE`, `ACK` and `CFG_ERROR` -/

/-- Settles O33: each of the three conditions fails the acceptance. -/
theorem idleAndUnacceptedTickChangeNothing : Obligations.IdleAndUnacceptedTickChangeNothing := by
  refine fun s => ⟨rfl, fun h => exec_tick_rejected (Bool.eq_false_iff.mpr fun ha => ?_)⟩
  obtain ⟨hm, hp, hpend⟩ := (accepts_iff s).mp ha
  simp [hm, hp, hpend] at h

/-- Settles O30: in `RUN` the operation is the acknowledge. -/
theorem ackClearsThePendingTick : Obligations.AckClearsThePendingTick :=
  fun _ hm => congrArg Host.Outcome.next (whenRunning_run hm)

theorem accepts_error {s : State} (hm : s.mode = .cfgError) : accepts s = false := by
  simp [accepts, hm]

/-- In `CFG_ERROR` every operation that is no construction and not reserved (whose mask is not 0) answers the
state as it was (R194). -/
theorem exec_error {i : Instr} {s : State} (hm : s.mode = .cfgError) (hc : i.reconstructs = false)
    (hr : i.tableMask ≠ 0) : exec i s = .next s := by
  have hstill (f : State → State) : (Host.Outcome.next (whenRunning f s) : Result) = .next s :=
    congrArg _ (whenRunning_error hm)
  cases i with
  | reset _ | buildTp | buildTz | buildBadpat _ => cases hc
  | romRsvd _ _ | evtRsvd _ _ _ | ustepRsvd _ => exact absurd rfl hr
  | tick => exact exec_tick_rejected (accepts_error hm)
  | idle => rfl
  | romRead => simp [exec, execRomRead, hm]
  | tpStep0 | tpStep1 | tpStep2 | tpStep3 | tpStep4 | tpStep5
  | tzStep0 | tzStep1 | tzStep2 | tzStep3 | tzStep4 | tzStep5
  | inc | setDuty _ _ | enable _ | disable _ | ack => exact hstill _

/-- Settles O49: each operation listed stands still, and so does every step that is no construction. -/
theorem configErrorStandsStill : Obligations.ConfigErrorStandsStill := by
  intro s hm
  have ha := accepts_error hm
  refine ⟨fun i hi => ?_, fun c v => exec_error hm rfl (by simp [Instr.tableMask]),
    fun c => ⟨exec_error hm rfl (by simp [Instr.tableMask]), exec_error hm rfl (by simp [Instr.tableMask])⟩,
    fun t hf hn hstep => ?_⟩
  · obtain ⟨hc, hr⟩ : i.reconstructs = false ∧ i.tableMask ≠ 0 := by revert i; decide
    exact exec_error hm hc hr
  · exact (step_cases hf hstep).onlyTimer hn (fun htick => by simp [ha] at htick) fun _ => .inl hm

end Machine
end Sys2Proof
end

section
/-! Construction and reset (40_table_rom.md section 2, 70_reset_and_hazards.md section 1). -/

namespace Sys2Proof.Machine

/-- Settles O12: `RESET` is `resetBlock`. -/
theorem resetConstructsTheBlockAgain : Obligations.ResetConstructsTheBlockAgain :=
  fun _ s => congrArg Host.Outcome.next (resetBlock_eq s)

/-- Settles O13: what `RESET` leaves is a function of the constants. -/
theorem twoResetsReachTheSameState : Obligations.TwoResetsReachTheSameState := by
  intro b b' s s' hp hm hpat
  refine ⟨_, _, resetConstructsTheBlockAgain b s, resetConstructsTheBlockAgain b' s', ?_⟩
  simp only [hp, hm, hpat, true_and]
  rfl

/-- Settles O14: the fields of one fixed state. -/
theorem resetStateHoldsTheResetValues : Obligations.ResetStateHoldsTheResetValues := by
  exact ⟨rfl, rfl, rfl, rfl, rfl, rfl, rfl, rfl, rfl⟩

/-- `BUILD` of a pattern is R100's pseudocode on that pattern. -/
theorem constructWith_eq (p : Fin 4) (s : State) :
    constructWith p s =
      { s with
        pattern := p
        cfgStatus := buildStatus s.maxDuty p
        mode := if buildStatus s.maxDuty p = .ok then .run else .cfgError
        table := buildTable s.params s.maxDuty p
        stepIndex := 0
        tickPos := 0 } :=
  construct_eq { s with pattern := p }

/-- Settles O15: a nonzero `MAX_DUTY` leaves the pattern to decide. -/
theorem buildEntersItsMode : Obligations.BuildEntersItsMode := by
  intro s hm
  have h0 : s.maxDuty ≠ 0 := by omega
  have hbuild (p : Fin 4) := (exec_decodeCfg p s).trans (congrArg _ (constructWith_eq p s))
  simp only [buildStatus, buildTable, if_neg h0] at hbuild
  refine ⟨hbuild 0, hbuild 1, fun low => ?_⟩
  cases low with
  | false => exact hbuild 2
  | true => exact hbuild 3

/-- The four construction operations are those of the `CFG` words. -/
theorem exec_construction {i : Instr} {p : Fin 4}
    (h : (i, p) ∈ [(Instr.buildTp, (0 : Fin 4)), (.buildTz, 1), (.buildBadpat false, 2),
      (.buildBadpat true, 3)]) (s : State) : exec i s = .next (constructWith p s) := by
  have hi : i = decodeCfg p := by
    simp only [List.mem_cons, Prod.mk.injEq, List.not_mem_nil, or_false] at h
    obtain ⟨rfl, rfl⟩ | ⟨rfl, rfl⟩ | ⟨rfl, rfl⟩ | ⟨rfl, rfl⟩ := h <;> rfl
  rw [hi, exec_decodeCfg]

theorem buildStatus_ne_zeroMaxDuty {m : Nat} (hm : 1 ≤ m) (p : Fin 4) :
    buildStatus m p ≠ .errZeroMaxDuty := by
  rw [buildStatus, if_neg (by omega)]
  split <;> simp

/-- Settles O16: the check of `MAX_DUTY` comes first. -/
theorem zeroMaxDutyRaisesBeforeAnyTable : Obligations.ZeroMaxDutyRaisesBeforeAnyTable := by
  refine fun s i p hip => ⟨fun h0 => ?_, fun h1 => ⟨_, exec_construction hip s, ?_⟩⟩
  · rw [exec_construction hip, constructWith_eq]
    simp [buildStatus, buildTable, h0]
  · rw [constructWith_eq]
    exact buildStatus_ne_zeroMaxDuty h1 p

/-- Settles O17: with no table listed, the tables at 1 are those of D7 and D8. -/
theorem maxDutyOneIsLegal : Obligations.MaxDutyOneIsLegal := by
  intro p hp
  have htz : buildTable p 1 1 = some (tzDefault 1) := by simp [buildTable, trapTable, hp, trapLookup]
  refine ⟨rfl, rfl, rfl, fun a => ?_⟩
  rw [htz, Option.map_some]
  revert a
  decide

end Sys2Proof.Machine
end

section
/-! The ROM (40_table_rom.md sections 3 to 5): the rows of the two patterns, and the read at the phase. -/

namespace Sys2Proof

/-! ### The tables -/

/-- The first table listed for `MAX_DUTY` counts (log entry 3). -/
theorem trapLookup_listed {before rest : List (Nat × Table)} {m : Nat} {t : Table}
    (h : ∀ e ∈ before, e.1 ≠ m) : trapLookup (before ++ (m, t) :: rest) m = t := by
  induction before with
  | nil => exact if_pos rfl
  | cons e before ih =>
    obtain ⟨he, hbefore⟩ := List.forall_mem_cons.mp h
    exact (if_neg he).trans (ih hbefore)

/-- Where no table is listed, the default counts (R113 to R118). -/
theorem trapLookup_default {l : List (Nat × Table)} {m : Nat} (h : ∀ e ∈ l, e.1 ≠ m) :
    trapLookup l m = tzDefault m := by
  induction l with
  | nil => rfl
  | cons e l ih =>
    obtain ⟨he, hl⟩ := List.forall_mem_cons.mp h
    exact (if_neg he).trans (ih hl)

/-- Settles O51: with `h` not zero the levels of the rows are fixed. -/
theorem twoPhaseTickTogglesTwoLevels : Obligations.TwoPhaseTickTogglesTwoLevels := by
  intro m hm
  have hhigh : enOf (highDuty m) = true := enOf_eq_true.mpr (show m / 2 ≠ 0 by omega)
  have hlow : enOf lowDuty = true := rfl
  refine ⟨fun a => ?_, ?_⟩
  · match a with
    | 0 | 1 | 2 | 3 | 4 | 5 =>
      simp [toggleCount, enOfRow, Table.rowAt, tpTable, tpRow0, tpRow1, tpRow2, tpRow3, tpRow4, tpRow5, hhigh,
        hlow]
  · simp [toggleCount, enOfRow, tpTable, tpRow0, tpRow3, hhigh, hlow]

/-- Settles O52: phase by phase. -/
theorem twoPhaseChannelsAreRotations : Obligations.TwoPhaseChannelsAreRotations := by
  intro m a
  match a with
  | 0 | 1 | 2 | 3 | 4 | 5 => exact ⟨rfl, rfl⟩

namespace Machine

/-! ### The selection of a row -/

/-- In `RUN` a selection puts its row on the row signal (R78, R43; log entry 8). -/
theorem next_selectRow_run {s : State} (hm : s.mode = .run) (r : Row) :
    (Host.Outcome.next (selectRow r s) : Result) = .next { s with row := r } :=
  congrArg _ (whenRunning_run hm)

/-- Settles O18: in `RUN` the operation is the selection of row 0. -/
theorem twoPhaseRowZero : Obligations.TwoPhaseRowZero := by
  refine ⟨rfl, fun _ => rfl, fun m hm => ?_, rfl, by decide, fun _ hm => next_selectRow_run hm _⟩
  have hhigh : enOf (m / 2) = true := enOf_eq_true.mpr hm
  show (⟨enOf 0, enOf (m / 2), enOf 1⟩ : PerChannel Bool) = _
  rw [hhigh]
  rfl

/-- Settles O19: in `RUN` each operation is the selection of its row. -/
theorem twoPhaseRowsOneToFive : Obligations.TwoPhaseRowsOneToFive :=
  fun _ hm => ⟨next_selectRow_run hm _, next_selectRow_run hm _, next_selectRow_run hm _,
    next_selectRow_run hm _, next_selectRow_run hm _⟩

/-- Settles O20: the selections, and the look-up in the list. -/
theorem trapezoidalRows : Obligations.TrapezoidalRows := by
  refine ⟨fun s hm => ⟨next_selectRow_run hm _, next_selectRow_run hm _, next_selectRow_run hm _,
    next_selectRow_run hm _, next_selectRow_run hm _, next_selectRow_run hm _⟩,
    fun p m => ⟨fun before t rest hp h => ?_, trapLookup_default⟩⟩
  rw [trapTable, hp, trapLookup_listed h]

/-! ### `ROM_READ` -/

theorem exec_romRead_run {s : State} {t : Table} (hm : s.mode = .run) (ht : s.table = some t) :
    exec .romRead s = .next (latchRow (t.rowAt (phaseOf s.stepIndex)) s) := by
  simp [exec, execRomRead, hm, currentRow_of_table ht]

/-- Settles O22: the read latches the current row. -/
theorem romReadReadsTheRowAtThePhase : Obligations.RomReadReadsTheRowAtThePhase :=
  ⟨rfl, phaseOf_val, fun _ _ hm ht => exec_romRead_run hm ht, rfl, rfl, fun _ _ => ⟨rfl, rfl⟩⟩

/-- The `ROMSEL` word of a two-phase row decodes to the selection of that row (R78). -/
theorem decode_tpSelection (W : Nat) (a : Fin 6) :
    ∃ i, decode W (romselWord 0 (Fin.ofNat 8 a)) = .ok i ∧
      ∀ s, exec i s = .next (selectRow ((tpTable s.maxDuty).rowAt a) s) := by
  match a with
  | 0 | 1 | 2 | 3 | 4 | 5 => exact ⟨_, rfl, fun _ => rfl⟩

/-- The `ROMSEL` word of a trapezoidal row decodes to the selection of that row (R78). -/
theorem decode_tzSelection (W : Nat) (a : Fin 6) :
    ∃ i, decode W (romselWord 1 (Fin.ofNat 8 a)) = .ok i ∧
      ∀ s, exec i s = .next (selectRow ((trapTable s.params s.maxDuty).rowAt a) s) := by
  match a with
  | 0 | 1 | 2 | 3 | 4 | 5 => exact ⟨_, rfl, fun _ => rfl⟩

/-- Settles O23: the table of a legal state in `RUN` is that of its pattern, whose selection the word decodes
to. -/
theorem romReadSelectsTheRomselRow : Obligations.RomReadSelectsTheRomselRow := by
  intro s h hm
  obtain ⟨t, ht⟩ := h.exists_table hm
  have hread := exec_romRead_run hm ht
  obtain ⟨-, ⟨hp, rfl⟩ | ⟨hp, rfl⟩⟩ := buildTable_eq_some (h.table_eq.symm.trans ht)
  · obtain ⟨i, hd, hi⟩ := decode_tpSelection s.params.dutyW (phaseOf s.stepIndex)
    have hexec : exec i s = _ := (hi s).trans (next_selectRow_run hm _)
    exact ⟨i, by rw [hp]; exact hd, hread.trans hexec.symm, _, hexec⟩
  · obtain ⟨i, hd, hi⟩ := decode_tzSelection s.params.dutyW (phaseOf s.stepIndex)
    have hexec : exec i s = _ := (hi s).trans (next_selectRow_run hm _)
    exact ⟨i, by rw [hp]; exact hd, hread.trans hexec.symm, _, hexec⟩

end Machine
end Sys2Proof
end

section
/-! Runs of the whole machine: a legal machine goes on (60_exceptions.md section 1), and with nothing to do it
stays as it is (section 9). -/

namespace Sys2Proof.Machine

/-! ### Runs -/

/-- A run takes its first step and runs on. -/
theorem coreRun_succ {M : Host.Core} {s s' : M.State} (h : M.step s = .next s') (n : Nat) :
    M.run (n + 1) s = M.run n s' := by
  simp only [Host.Core.run, h]

/-- A run that answers a next state has taken its first step. -/
theorem coreRun_succ_eq_next {M : Host.Core} {n : Nat} {s a : M.State} (h : M.run (n + 1) s = .next a) :
    ∃ b, M.step s = .next b ∧ M.run n b = .next a := by
  cases hstep : M.step s with
  | next b => exact ⟨b, rfl, by rwa [coreRun_succ hstep] at h⟩
  | fault e => simp [Host.Core.run, hstep] at h
  | refused e => simp [Host.Core.run, hstep] at h

theorem run_zero (s : State) : core.run 0 s = .next s := rfl

theorem run_succ {s s' : State} (h : step s = .next s') (n : Nat) : core.run (n + 1) s = core.run n s' :=
  coreRun_succ (M := core) h n

theorem run_succ_eq_next {n : Nat} {s a : State} (h : core.run (n + 1) s = .next a) :
    ∃ b, step s = .next b ∧ core.run n b = .next a :=
  coreRun_succ_eq_next (M := core) h

/-- A run may be cut in two. -/
theorem run_add {m : Nat} {s a : State} (h : core.run m s = .next a) (n : Nat) :
    core.run (m + n) s = core.run n a := by
  induction m generalizing s with
  | zero => rw [run_zero] at h; cases h; rw [Nat.zero_add]
  | succ m ih =>
    obtain ⟨b, hstep, hrun⟩ := run_succ_eq_next h
    rw [Nat.succ_add, run_succ hstep, ih hrun]

/-- A run from a legal state stays among the legal states. -/
theorem run_inv {n : Nat} {s a : State} (h : s.Inv) (hrun : core.run n s = .next a) : a.Inv := by
  induction n generalizing s with
  | zero => rw [run_zero] at hrun; cases hrun; exact h
  | succ n ih =>
    obtain ⟨b, hstep, hrest⟩ := run_succ_eq_next hrun
    exact ih (everyStepKeepsTheMachineLegal s b h hstep) hrest

/-! ### With no input the sequencer moves -/

theorem takeInput_of_nil {s : State} (h : s.inputs = []) : takeInput s = s := by
  rw [takeInput, h, List.tail_nil, ← h]

theorem nextInput_of_nil {s : State} (h : s.inputs = []) : nextInput s = .turn := by
  rw [nextInput, h, List.headD_nil]

theorem step_of_no_input {s : State} (hf : s.fetchWord = none) (h : s.inputs = []) : step s = turn s := by
  rw [step_of_turn hf (nextInput_of_nil h), takeInput_of_nil h]

/-- Settles O44: each step is the idle sequencer's. -/
theorem outputsAreHeldBetweenTicks : Obligations.OutputsAreHeldBetweenTicks := by
  intro s n hf hin hp hpend
  have hstep : step s = .next s :=
    (step_of_no_input hf hin).trans (turn_idle (by simp [accepts, hpend]) hp)
  induction n with
  | zero => rfl
  | succ n ih => rw [run_succ hstep, ih]

/-! ### A legal machine goes on -/

/-- In `RUN` a row can be read (R31, R32). -/
theorem State.Inv.exists_currentRow {s : State} (h : s.Inv) (hm : s.mode = .run) :
    ∃ r, currentRow s = some r := by
  obtain ⟨t, ht⟩ := h.exists_table hm
  exact ⟨_, currentRow_of_table ht⟩

/-- From a legal state the sequencer always moves: no position is reserved and the row is there (R82, R145). -/
theorem State.Inv.exists_turn {s : State} (h : s.Inv) : ∃ t, turn s = .next t := by
  have h9 := h.pos_legal
  by_cases ha : accepts s = true
  · exact ⟨_, turn_accept ha⟩
  cases hm : s.mode with
  | cfgError => exact ⟨_, turn_error hm h9⟩
  | run =>
    obtain hp | hp | ⟨c, q, hp⟩ | ⟨c, q, hp⟩ | hp | hp | hp := pos_cases s.tickPos
    · exact ⟨_, turn_idle (Bool.eq_false_iff.mpr ha) hp⟩
    · obtain ⟨r, hr⟩ := h.exists_currentRow hm
      exact ⟨_, turn_read hm hp hr⟩
    · exact ⟨_, turn_duty hm hp⟩
    · exact ⟨_, turn_level hm hp⟩
    · exact ⟨_, turn_inc hm hp⟩
    · exact ⟨_, turn_ack hm hp⟩
    · omega

/-- From a legal state a `TICK` word, accepted or not, is never refused (R145). -/
theorem State.Inv.exists_tick {s : State} (h : s.Inv) : ∃ t, exec .tick s = .next t := by
  cases ha : accepts s with
  | false => exact ⟨_, exec_tick_rejected ha⟩
  | true =>
    obtain ⟨hm, -, -⟩ := (accepts_iff s).mp ha
    obtain ⟨t, ht⟩ := h.exists_table hm
    exact ⟨_, exec_tick_accepted ha ht⟩

/-- Settles O47: by cases over the input. -/
theorem legalMachineNeverStops : Obligations.LegalMachineNeverStops := by
  intro s h
  rw [step_of_input h.no_word]
  cases nextInput s with
  | turn => exact .inl h.takeInput.exists_turn
  | expire => exact .inl ⟨_, rfl⟩
  | inWord rst tickReq =>
    match rst, tickReq with
    | true, b => exact .inl ⟨_, present_reset b _⟩
    | false, true => exact .inl (by rw [present_tick]; exact h.takeInput.exists_tick)
    | false, false => exact .inl ⟨_, present_idle _⟩
  | build m p =>
    rw [present_build]
    by_cases hm : m < 2 ^ s.params.dutyW
    · exact .inl ⟨_, if_pos hm⟩
    · exact .inr ⟨m, p, rfl, Nat.not_lt.mp hm, if_neg hm⟩

/-! ### The acknowledge -/

/-- Only the `ACK` of a turn clears the condition (R136). -/
theorem TurnCase.pending {s t : State} (h : TurnCase s t) :
    t.tickPending = s.tickPending ∨ s.tickPos = 9 := by
  cases h with
  | ack _ hp => exact .inr hp
  | accept _ | still _ | read _ _ _ _ | duty _ _ _ _ | level _ _ _ _ | inc _ _ => exact .inl rfl

/-- Settles O40: at position 9 the invariant says what has been applied. -/
theorem acknowledgeComesLast : Obligations.AcknowledgeComesLast := by
  intro s t h hn hstep hpend hclear
  rw [step_of_turn h.no_word hn] at hstep
  have hp : s.tickPos = 9 := by
    refine (turn_cases hstep).pending.resolve_left fun heq => ?_
    rw [hclear, takeInput_tickPending, hpend] at heq
    cases heq
  obtain ⟨hduty, hlevel⟩ := h.applied.all (by simp [hp])
  obtain ⟨i, tab, -, ht, hidx, hrow⟩ := h.row_held.after_inc hp
  exact ⟨hp, hduty, hlevel, i, tab, ht, hidx, hrow⟩

/-- Settles O50: in a legal state the latch holds the active step, which is in range. -/
theorem sequencerWritesTheRomFieldUnchanged : Obligations.SequencerWritesTheRomFieldUnchanged := by
  intro s c h hn hc
  have hpos : (c, s.tickPos, c.levelPos) ∈
      [(Channel.u, (2 : Fin 16), (3 : Fin 16)), (.v, 4, 5), (.w, 6, 7)] ∧
      2 ≤ s.tickPos ∧ s.tickPos ≤ 8 := by
    generalize s.tickPos = p at hc
    cases c <;> revert p <;> decide
  obtain ⟨hmem, hlo, hhi⟩ := hpos
  obtain ⟨-, hm⟩ := h.busy_pending (by omega)
  have hrow : currentRow s = some s.row := h.row_held.before_inc hlo hhi
  have hstep : step s = _ := (step_of_turn h.no_word hn).trans (turn_duty (s := takeInput s) hm hmem)
  have hduty := PerChannel.get_set_same c (s.row.get c) s.duty
  refine ⟨_, s.row, hstep, hrow, hduty, ?_, rfl, rfl⟩
  exact hduty.trans_le ((h.currentRow_inRange hrow).get c)

end Sys2Proof.Machine
end

section
/-! The tick in micro-steps (41_sequencer_fsm.md section 2): the state after each of the sequencer's turns, and the
turns together as the one operation `TICK`. -/

namespace Sys2Proof.Machine

/-! ### The state after each turn -/

/-- The state after `j` turns of an accepted tick of row `r` (R134's table, row `j - 1`): the `k`-th channel's duty
from turn `2k + 3` on and its level from `2k + 4` on, the counter advanced from turn 9 on, all of it done at 10. -/
def afterTurns (r : Row) (j : Nat) (s : State) : State :=
  { s with
    duty := ⟨if 3 ≤ j then r.u else s.duty.u, if 5 ≤ j then r.v else s.duty.v,
      if 7 ≤ j then r.w else s.duty.w⟩
    en := ⟨if 4 ≤ j then enOf r.u else s.en.u, if 6 ≤ j then enOf r.v else s.en.v,
      if 8 ≤ j then enOf r.w else s.en.w⟩
    stepIndex := if 9 ≤ j then addW s.params.idxW s.stepIndex 1 else s.stepIndex
    tickPending := decide (j ≠ 10)
    tickPos := if j = 10 then 0 else Fin.ofNat 16 j
    row := if 2 ≤ j then r else s.row
    trace := s.trace ++ (tickEvents r).take (if j = 10 then 7 else if 9 ≤ j then 6 else j - 2) }

theorem afterTurns_zero {s : State} (ha : accepts s = true) (r : Row) : afterTurns r 0 s = s := by
  obtain ⟨-, hp, hpend⟩ := (accepts_iff s).mp ha
  simp [afterTurns, ← hp, ← hpend]

theorem afterTurns_ten (r : Row) (s : State) : afterTurns r 10 s = tickBody r s := by
  rw [tickBody_eq]
  rfl

theorem afterTurns_tickPos_val (r : Row) (s : State) {j : Nat} (hj : j ≤ 10) :
    (afterTurns r j s).tickPos.val = if j = 10 then 0 else j := by
  simp only [afterTurns]
  split
  · rfl
  · exact Nat.mod_eq_of_lt (by omega)

/-- Taking an input and the tick's own changes do not meet. -/
theorem takeInput_afterTurns (r : Row) (j : Nat) (s : State) :
    takeInput (afterTurns r j s) = afterTurns r j (takeInput s) := rfl

/-- An expiry before the acknowledge is lost: the condition is pending already (R35, R208). -/
theorem timerExpiry_afterTurns {j : Nat} (hj : j ≠ 10) (r : Row) (s : State) :
    timerExpiry (afterTurns r j s) = afterTurns r j s := by
  simp [timerExpiry, afterTurns, hj]

/-- The level event as the decoder gives it and as the list of a tick's events has it (R84, R160). -/
theorem levelEvent_eq (c : Channel) (d : Duty) :
    (if enOf d then Event.enable c else .disable c) = if d = 0 then .disable c else .enable c := by
  by_cases hd : d = 0 <;> simp [enOf, hd]

/-- At a channel's duty position the turn writes its duty (R82, R134). -/
theorem turn_afterTurns_duty {s : State} (hm : s.mode = .run) (r : Row) (c : Channel) :
    turn (afterTurns r c.dutyPos s) = .next (afterTurns r c.levelPos s) := by
  have hc : (c, (afterTurns r c.dutyPos s).tickPos, c.levelPos) ∈
      [(Channel.u, (2 : Fin 16), (3 : Fin 16)), (.v, 4, 5), (.w, 6, 7)] := by
    cases c <;> simp [afterTurns, Channel.dutyPos, Channel.levelPos]
  refine (turn_duty (s := afterTurns r c.dutyPos s) hm hc).trans ?_
  cases c <;> simp [afterTurns, tickEvents, writeDuty, Channel.dutyPos, Channel.levelPos]

/-- At a channel's level position the turn writes its level (R82, R134). -/
theorem turn_afterTurns_level {s : State} (hm : s.mode = .run) (r : Row) (c : Channel) :
    turn (afterTurns r c.levelPos s) = .next (afterTurns r (c.levelPos + 1 : Fin 16) s) := by
  have hc : (c, (afterTurns r c.levelPos s).tickPos, c.levelPos + 1) ∈
      [(Channel.u, (3 : Fin 16), (4 : Fin 16)), (.v, 5, 6), (.w, 7, 8)] := by
    cases c <;> simp [afterTurns, Channel.levelPos]
  refine (turn_level (s := afterTurns r c.levelPos s) hm hc).trans ?_
  cases c <;> simp [afterTurns, tickEvents, writeLevel, levelEvent_eq, Channel.levelPos]

/-- Each turn inside a tick goes to the next row of R134's table. -/
theorem turn_afterTurns {s : State} {r : Row} (ha : accepts s = true) (hr : currentRow s = some r) {j : Nat}
    (hj : j < 10) : turn (afterTurns r j s) = .next (afterTurns r (j + 1) s) := by
  obtain ⟨hm, -, -⟩ := (accepts_iff s).mp ha
  match j with
  | 0 => exact turn_accept (s := afterTurns r 0 s) (by rw [afterTurns_zero ha, ha])
  | 1 => exact turn_read (s := afterTurns r 1 s) hm rfl hr
  | 2 => exact turn_afterTurns_duty hm r .u
  | 3 => exact turn_afterTurns_level hm r .u
  | 4 => exact turn_afterTurns_duty hm r .v
  | 5 => exact turn_afterTurns_level hm r .v
  | 6 => exact turn_afterTurns_duty hm r .w
  | 7 => exact turn_afterTurns_level hm r .w
  | 8 => exact turn_inc (s := afterTurns r 8 s) hm rfl
  | 9 =>
    refine (turn_ack (s := afterTurns r 9 s) hm rfl).trans ?_
    simp [afterTurns, tickEvents, acknowledge]
  | n + 10 => omega

/-- With no input, `j` steps of an accepted tick are `j` turns. -/
theorem run_afterTurns {s : State} {r : Row} (ha : accepts s = true) (hf : s.fetchWord = none)
    (hin : s.inputs = []) (hr : currentRow s = some r) {j : Nat} (hj : j ≤ 10) :
    core.run j s = .next (afterTurns r j s) := by
  induction j with
  | zero => rw [run_zero, afterTurns_zero ha]
  | succ j ih =>
    have hstep : step (afterTurns r j s) = .next (afterTurns r (j + 1) s) :=
      (step_of_no_input (s := afterTurns r j s) hf hin).trans (turn_afterTurns ha hr hj)
    rw [run_add (ih (Nat.le_of_succ_le hj)) 1, run_succ hstep, run_zero]

/-- Settles O36: the state after `k + 1` turns. -/
theorem stateAfterEachMicroStep : Obligations.StateAfterEachMicroStep := by
  intro s t r b ha hf hin ht hr hb k hk
  subst hr hb
  refine ⟨_, run_afterTurns ha hf hin (currentRow_of_table ht) (Nat.succ_le_succ hk), ?_⟩
  simpa [afterTurns, enOfRow] using
    afterTurns_tickPos_val (t.rowAt (phaseOf s.stepIndex)) s (Nat.succ_le_succ hk)

/-! ### The turns are one `TICK` -/

/-- From `j` turns on, the remaining turns of the tick, with any expiries between them, complete it (R208). -/
theorem run_turns_and_expiries {r : Row} {rest : List Input} (es : List Input) {j : Nat} {s : State}
    (ha : accepts s = true) (hf : s.fetchWord = none) (hr : currentRow s = some r)
    (hin : s.inputs = es ++ rest) (hes : ∀ e ∈ es, e = .turn ∨ e = .expire)
    (hcount : j + es.count .turn = 10) (hlast : ∀ e ∈ es.getLast?, e = .turn) :
    core.run es.length (afterTurns r j s) = .next (afterTurns r 10 { s with inputs := rest }) := by
  induction es generalizing j s with
  | nil =>
    have hj : j = 10 := hcount
    have hs : { s with inputs := rest } = s := by rw [← List.nil_append rest, ← hin]
    rw [hs, hj]
    rfl
  | cons e es ih =>
    obtain ⟨he, hes'⟩ := List.forall_mem_cons.mp hes
    have hlast' : ∀ e ∈ es.getLast?, e = .turn := by
      cases es with
      | nil => simp
      | cons _ _ => rwa [List.getLast?_cons_cons] at hlast
    have htail : (takeInput s).inputs = es ++ rest := by rw [takeInput_inputs, hin]; rfl
    have hnext : nextInput s = e := by rw [nextInput, hin]; rfl
    obtain rfl | rfl := he
    · have hcount' : j + 1 + es.count .turn = 10 := by rw [List.count_cons_self] at hcount; omega
      have hstep : step (afterTurns r j s) = .next (afterTurns r (j + 1) (takeInput s)) :=
        (step_of_turn (s := afterTurns r j s) hf hnext).trans
          (turn_afterTurns (s := takeInput s) ha hr (by omega))
      rw [List.length_cons, run_succ hstep]
      exact ih (s := takeInput s) ha hf hr htail hes' hcount' hlast'
    · have hcount' : j + es.count .turn = 10 := by
        rwa [List.count_cons_of_ne (by decide)] at hcount
      have hj : j ≠ 10 := by
        rintro rfl
        have hturn := hlast _ (List.getLast?_eq_some_getLast (List.cons_ne_nil .expire es))
        have hmem : Input.turn ∈ Input.expire :: es := hturn ▸ List.getLast_mem _
        have hpos := List.count_pos_iff.mpr (List.mem_of_ne_of_mem (by decide) hmem)
        omega
      have hstep : step (afterTurns r j s) = .next (afterTurns r j (takeInput s)) := by
        rw [step_of_input (s := afterTurns r j s) hf, show nextInput (afterTurns r j s) = _ from hnext,
          present_expire, takeInput_afterTurns, timerExpiry_afterTurns hj]
      rw [List.length_cons, run_succ hstep]
      exact ih (s := takeInput s) ha hf hr htail hes' hcount' hlast'

/-- Settles O37: the ten turns from the acceptance on are the body of the tick. -/
theorem microStepsAreOneTickAndExpiriesAreLost : Obligations.MicroStepsAreOneTickAndExpiriesAreLost := by
  intro s t es rest ha hf ht hin hes hcount hlast
  have hrun := run_turns_and_expiries (j := 0) es ha hf (currentRow_of_table ht) hin hes
    (by rw [hcount]) (by simp [hlast])
  rw [afterTurns_zero ha, afterTurns_ten] at hrun
  exact hrun.trans (exec_tick_accepted (s := { s with inputs := rest }) ha ht).symm

/-! ### An accepted tick completes -/

/-- What a completed tick has left of a state `s`, when `i` was the counter before its advance (R131). -/
structure TickDone (s : State) (i : Index) (a : State) : Prop where
  idle : a.tickPos = 0
  cleared : a.tickPending = false
  running : a.mode = .run
  acked : ∃ before, a.trace = before ++ [.ack]
  index_fits : i < 2 ^ s.params.idxW
  advanced : a.stepIndex = addW s.params.idxW i 1
  applied : ∃ t, s.table = some t ∧ a.duty = t.rowAt (phaseOf i)
  levels : a.en = enOfRow a.duty

/-- At position 9 the tick completes with its acknowledge. -/
theorem run_from_nine {s : State} {i : Index} {t : Table} (h : s.Inv) (hp : s.tickPos = 9)
    (hin : s.inputs = []) (hi : i < 2 ^ s.params.idxW) (ht : s.table = some t)
    (hidx : s.stepIndex = addW s.params.idxW i 1) (hrow : s.row = t.rowAt (phaseOf i)) :
    ∃ a, core.run 1 s = .next a ∧ TickDone s i a := by
  obtain ⟨-, hm⟩ := h.busy_pending (by simp [hp])
  obtain ⟨hduty, hlevel⟩ := h.applied.all (by simp [hp])
  refine ⟨acknowledge s, run_succ ((step_of_no_input h.no_word hin).trans (turn_ack hm hp)) 0, ?_⟩
  exact {
    idle := rfl
    cleared := rfl
    running := hm
    acked := ⟨_, rfl⟩
    index_fits := hi
    advanced := hidx
    applied := ⟨t, ht, hduty.trans hrow⟩
    levels := by rw [acknowledge_en, acknowledge_duty, hlevel, hduty] }

/-- Between the acceptance and `INC` a turn goes one position on and leaves the counter (R134). -/
theorem TurnCase.before_inc {s b : State} (h : TurnCase s b) (hm : s.mode = .run) (hlo : 1 ≤ s.tickPos)
    (hhi : s.tickPos ≤ 7) :
    b.tickPos = s.tickPos + 1 ∧ b.stepIndex = s.stepIndex ∧ b.table = s.table ∧ b.params = s.params ∧
      b.inputs = s.inputs := by
  have h0 : s.tickPos ≠ 0 := by omega
  cases h with
  | accept ha => exact absurd (accepts_of_inside h0) (by simp [ha])
  | still hs => exact absurd hs (by simp [hm, h0])
  | read _ hp _ _ => exact ⟨by rw [hp]; rfl, rfl, rfl, rfl, rfl⟩
  | duty _ c q hc =>
    obtain ⟨-, -, -, hq⟩ := microOp_duty (r := s.row) hc
    exact ⟨hq.symm, rfl, rfl, rfl, rfl⟩
  | level _ c q hc =>
    obtain ⟨-, -, -, hq⟩ := microOp_level (r := s.row) hc
    exact ⟨hq.symm, rfl, rfl, rfl, rfl⟩
  | inc _ hp | ack _ hp => omega

/-- From a position before the advance, `n` steps before `INC`, the tick completes. -/
theorem run_from_before_inc {n : Nat} {s : State} (h : s.Inv) (hlo : s.tickPos ≠ 0)
    (hp : s.tickPos.val + n = 8) (hin : s.inputs = []) :
    ∃ a, core.run (n + 2) s = .next a ∧ TickDone s s.stepIndex a := by
  obtain ⟨-, hm⟩ := h.busy_pending hlo
  induction n generalizing s with
  | zero =>
    have hp : s.tickPos = 8 := by omega
    obtain ⟨t, ht, hrow⟩ := currentRow_eq_some (h.row_held.before_inc (by simp [hp]) (by simp [hp]))
    have hstep := (step_of_no_input h.no_word hin).trans (turn_inc hm hp)
    obtain ⟨a, hrun, hdone⟩ := run_from_nine (h.advanceIndex hp) rfl hin h.index_fits ht rfl hrow
    exact ⟨a, (run_succ hstep 1).trans hrun, { hdone with }⟩
  | succ n ih =>
    obtain ⟨b, hb⟩ := h.exists_turn
    have hcase := turn_cases hb
    obtain ⟨hpos, hidx, htab, hpar, hinp⟩ := hcase.before_inc hm (by omega) (by omega)
    have hinv := hcase.inv h
    have hb0 : b.tickPos ≠ 0 := by omega
    obtain ⟨-, hmb⟩ := hinv.busy_pending hb0
    obtain ⟨a, hrun, hdone⟩ := ih hinv hb0 (by omega) (hinp.trans hin) hmb
    rw [hidx] at hdone
    refine ⟨a, (run_succ ((step_of_no_input h.no_word hin).trans hb) _).trans hrun, ?_⟩
    exact { hdone with
      index_fits := hpar ▸ hdone.index_fits
      advanced := hpar ▸ hdone.advanced
      applied := htab ▸ hdone.applied }

/-- Settles O38: from position 9 by the acknowledge, from any other by the steps before it. -/
theorem acceptedTickCompletes : Obligations.AcceptedTickCompletes := by
  intro s h hp hin
  have h9 := h.pos_legal
  have hdone : ∃ a i, core.run (10 - s.tickPos.val) s = .next a ∧ TickDone s i a ∧
      (s.tickPos ≠ 9 → i = s.stepIndex) := by
    by_cases hp9 : s.tickPos = 9
    · obtain ⟨i, t, hi, ht, hidx, hrow⟩ := h.row_held.after_inc hp9
      obtain ⟨a, hrun, hdone⟩ := run_from_nine h hp9 hin hi ht hidx hrow
      exact ⟨a, i, by rw [hp9]; exact hrun, hdone, fun hne => absurd hp9 hne⟩
    · obtain ⟨a, hrun, hdone⟩ := run_from_before_inc (n := 8 - s.tickPos.val) h hp (by omega) hin
      have hn : 10 - s.tickPos.val = 8 - s.tickPos.val + 2 := by omega
      exact ⟨a, s.stepIndex, by rw [hn]; exact hrun, hdone, fun _ => rfl⟩
  obtain ⟨a, i, hrun, hd, hi⟩ := hdone
  obtain ⟨t, ht, hduty⟩ := hd.applied
  exact ⟨a, hrun, hd.idle, hd.cleared, hd.running, hd.acked, i, t, ht, hd.index_fits, hi, hd.advanced,
    hduty, hd.levels⟩

end Sys2Proof.Machine
end

section
/-! Ticks one after another (41_sequencer_fsm.md sections 4 and 5): what a tick depends on, the cyclic advance over
any number of ticks, and the rows skipped at the wrap. -/

namespace Sys2Proof

/-! ### The list of ticks -/

theorem ticksProgram_succ (n : Nat) :
    ticksProgram (n + 1) = ticksProgram n ++ [.expire, .inWord false true] := by
  induction n with
  | zero => rfl
  | succ n ih => exact congrArg (Input.expire :: .inWord false true :: ·) ih

/-! ### The phase at the top of the counter -/

/-- The powers of two from 2 on are 2 and 4 modulo 6, in turn. -/
theorem two_pow_mod_six (k : Nat) : 2 ^ (2 * k + 1) % 6 = 2 ∧ 2 ^ (2 * k + 2) % 6 = 4 := by
  induction k with
  | zero => decide
  | succ k ih =>
    have hodd : 2 ^ (2 * (k + 1) + 1) = 4 * 2 ^ (2 * k + 1) := by ring
    have heven : 2 ^ (2 * (k + 1) + 2) = 4 * 2 ^ (2 * k + 2) := by ring
    omega

/-- The top of the counter has phase 3 when its width is even and phase 1 when it is odd (R138, D5). -/
theorem phaseOf_top {W : Nat} (hW : 1 ≤ W) : phaseOf (2 ^ W - 1) = if W % 2 = 0 then 3 else 1 := by
  obtain ⟨k, hk⟩ : ∃ k, W = 2 * k + 1 ∨ W = 2 * k + 2 := ⟨(W - 1) / 2, by omega⟩
  obtain ⟨hodd, heven⟩ := two_pow_mod_six k
  have hpos := Nat.two_pow_pos W
  apply Fin.ext
  rw [phaseOf_val]
  obtain rfl | rfl := hk
  · rw [if_neg (by omega)]
    show (2 ^ (2 * k + 1) - 1) % 6 = 1
    omega
  · rw [if_pos (by omega)]
    show (2 ^ (2 * k + 2) - 1) % 6 = 3
    omega

namespace Machine

/-! ### One tick -/

@[simp] theorem tickBody_params (r : Row) (s : State) : (tickBody r s).params = s.params := by
  rw [tickBody_eq]

@[simp] theorem tickBody_fetchWord (r : Row) (s : State) : (tickBody r s).fetchWord = s.fetchWord := by
  rw [tickBody_eq]

@[simp] theorem tickBody_trace (r : Row) (s : State) : (tickBody r s).trace = s.trace ++ tickEvents r := by
  rw [tickBody_eq]

/-- An accepted `TICK` that answers a next state has read a row and run the tick's body (R131). -/
theorem exec_tick_eq_next {s t : State} (ha : accepts s = true) (h : exec .tick s = .next t) :
    ∃ r, currentRow s = some r ∧ t = tickBody r s := by
  simp only [exec, execTick, ha, if_true] at h
  split at h
  · next r hr => cases h; exact ⟨r, hr, rfl⟩
  · cases h

/-- Settles O35: both ticks read the same row, and the tick's body reads nothing else but the counter. -/
theorem tickDependsOnTheControlStateAlone : Obligations.TickDependsOnTheControlStateAlone := by
  intro s s' t t' hc ha h h'
  have ha' : accepts s' = true := by rwa [accepts, ← hc.mode, ← hc.tickPos, ← hc.tickPending]
  obtain ⟨r, hr, rfl⟩ := exec_tick_eq_next ha h
  obtain ⟨r', hr', rfl⟩ := exec_tick_eq_next ha' h'
  obtain rfl : r = r' := by
    rw [currentRow, hc.table, hc.stepIndex] at hr
    exact Option.some.inj (hr.symm.trans hr')
  simp only [tickBody_eq, hc.params, hc.stepIndex, and_self]

/-- Settles O43: the phase at the top is that of R138, and the next tick is at the counter 0. -/
theorem wrapSkipsRows : Obligations.WrapSkipsRows := by
  intro s t hW htop ha ht
  obtain ⟨hm, -, -⟩ := (accepts_iff s).mp ha
  have hrow : t.rowAt (phaseOf s.stepIndex) = if s.params.idxW % 2 = 0 then t.row3 else t.row1 := by
    rw [htop, phaseOf_top hW]
    split <;> rfl
  have hzero := tickBody_stepIndex_top htop (t.rowAt (phaseOf s.stepIndex))
  generalize hr : t.rowAt (phaseOf s.stepIndex) = r at hrow hzero
  have ha' : accepts (timerExpiry (tickBody r s)) = true := by simp [accepts, hm]
  have ht' : (timerExpiry (tickBody r s)).table = some t := by simp [ht]
  refine ⟨tickBody r s, _, by rw [exec_tick_accepted ha ht, hr], by rw [tickBody_duty, hrow],
    exec_tick_accepted ha' ht', ?_, ?_⟩
  · rw [tickBody_duty, timerExpiry_stepIndex, hzero]
    rfl
  · have hpow : 2 ^ 1 ≤ 2 ^ s.params.idxW := Nat.pow_le_pow_right (by decide) hW
    rw [tickBody_stepIndex, timerExpiry_stepIndex, hzero, timerExpiry_params, tickBody_params]
    exact addW_of_lt (by omega)

/-! ### Any number of ticks -/

/-- The state after `n` ticks of table `t`. -/
def afterTicks (t : Table) (s : State) : Nat → State
  | 0 => s
  | n + 1 => tickBody (t.rowAt (phaseOf (afterTicks t s n).stepIndex)) (afterTicks t s n)

@[simp] theorem afterTicks_zero (t : Table) (s : State) : afterTicks t s 0 = s := rfl

theorem afterTicks_succ (t : Table) (s : State) (n : Nat) :
    afterTicks t s (n + 1) =
      tickBody (t.rowAt (phaseOf (afterTicks t s n).stepIndex)) (afterTicks t s n) := rfl

@[simp] theorem afterTicks_params (t : Table) (s : State) (n : Nat) :
    (afterTicks t s n).params = s.params := by
  induction n with
  | zero => rfl
  | succ n ih => rw [afterTicks_succ, tickBody_params, ih]

@[simp] theorem afterTicks_mode (t : Table) (s : State) (n : Nat) : (afterTicks t s n).mode = s.mode := by
  induction n with
  | zero => rfl
  | succ n ih => rw [afterTicks_succ, tickBody_mode, ih]

@[simp] theorem afterTicks_table (t : Table) (s : State) (n : Nat) :
    (afterTicks t s n).table = s.table := by
  induction n with
  | zero => rfl
  | succ n ih => rw [afterTicks_succ, tickBody_table, ih]

@[simp] theorem afterTicks_fetchWord (t : Table) (s : State) (n : Nat) :
    (afterTicks t s n).fetchWord = s.fetchWord := by
  induction n with
  | zero => rfl
  | succ n ih => rw [afterTicks_succ, tickBody_fetchWord, ih]

theorem afterTicks_tickPos {s : State} (hp : s.tickPos = 0) (t : Table) (n : Nat) :
    (afterTicks t s n).tickPos = 0 := by
  cases n with
  | zero => exact hp
  | succ n => rw [afterTicks_succ, tickBody_tickPos]

/-- The counter after `n` ticks, across wraps (R140). -/
theorem afterTicks_stepIndex {s : State} (hi : s.stepIndex < 2 ^ s.params.idxW) (t : Table) (n : Nat) :
    (afterTicks t s n).stepIndex = addW s.params.idxW s.stepIndex n := by
  induction n with
  | zero => exact (addW_of_lt (b := 0) hi).symm
  | succ n ih => rw [afterTicks_succ, tickBody_stepIndex, afterTicks_params, ih, addW_addW]

/-- The trace after `n` ticks: the events of each tick's row (R84, R140). -/
theorem afterTicks_trace {s : State} (hi : s.stepIndex < 2 ^ s.params.idxW) (t : Table) (n : Nat) :
    (afterTicks t s n).trace = s.trace ++ (List.range n).flatMap
      (fun k => tickEvents (t.rowAt (phaseOf (addW s.params.idxW s.stepIndex k)))) := by
  induction n with
  | zero => exact (List.append_nil _).symm
  | succ n ih =>
    rw [afterTicks_succ, tickBody_trace, ih, afterTicks_stepIndex hi, List.range_succ, List.flatMap_append,
      List.flatMap_singleton, List.append_assoc]

/-- An accepted `TICK` word of the outside runs the body of the tick (R76, R131). -/
theorem step_tick_accepted {s : State} {t : Table} {rest : List Input} (ha : accepts s = true)
    (hf : s.fetchWord = none) (ht : s.table = some t) (hin : s.inputs = .inWord false true :: rest) :
    step s = .next (tickBody (t.rowAt (phaseOf s.stepIndex)) { s with inputs := rest }) := by
  rw [step_of_next_input hf hin, present_tick]
  exact exec_tick_accepted (s := { s with inputs := rest }) ha ht

/-- `EXPIRE`; `TICK` from a quiescent state in `RUN` is one tick (R93). -/
theorem run_expire_tick {s : State} {t : Table} {rest : List Input} (hf : s.fetchWord = none)
    (hm : s.mode = .run) (hp : s.tickPos = 0) (ht : s.table = some t)
    (hin : s.inputs = .expire :: .inWord false true :: rest) :
    core.run 2 s = .next { tickBody (t.rowAt (phaseOf s.stepIndex)) s with inputs := rest } := by
  have hexpire := step_of_next_input hf hin
  rw [present_expire] at hexpire
  have ha : accepts (timerExpiry { s with inputs := .inWord false true :: rest }) = true :=
    (accepts_iff _).mpr ⟨hm, hp, rfl⟩
  rw [run_succ hexpire, run_succ (step_tick_accepted ha hf ht rfl), run_zero, tickBody_eq, tickBody_eq]
  rfl

/-- `2n` steps on `n` times `EXPIRE`; `TICK` are `n` ticks (R93). -/
theorem run_ticksProgram {s : State} {t : Table} {n : Nat} {rest : List Input} (hf : s.fetchWord = none)
    (hm : s.mode = .run) (hp : s.tickPos = 0) (ht : s.table = some t)
    (hin : s.inputs = ticksProgram n ++ rest) :
    core.run (2 * n) s = .next { afterTicks t s n with inputs := rest } := by
  induction n generalizing rest with
  | zero =>
    obtain rfl : s.inputs = rest := hin
    rfl
  | succ n ih =>
    have hcut : s.inputs = ticksProgram n ++ (.expire :: .inWord false true :: rest) := by
      rw [hin, ticksProgram_succ, List.append_assoc]
      rfl
    have htick := run_expire_tick
      (s := { afterTicks t s n with inputs := .expire :: .inWord false true :: rest })
      ((afterTicks_fetchWord t s n).trans hf) ((afterTicks_mode t s n).trans hm)
      (afterTicks_tickPos hp t n) ((afterTicks_table t s n).trans ht) rfl
    rw [Nat.mul_succ, run_add (ih hcut), htick]
    rfl

/-- Settles O41: the run of the ticks ends in `afterTicks`, legal because every step keeps the machine legal. -/
theorem cyclicAdvanceExactly : Obligations.CyclicAdvanceExactly := by
  intro s t n h hm hp ht hin
  have hi := h.index_fits
  have hrun := run_ticksProgram (rest := []) h.no_word hm hp ht (by rw [hin, List.append_nil])
  have hidx := afterTicks_stepIndex hi t n
  have hrow : currentRow (afterTicks t s n) = _ := currentRow_of_table ((afterTicks_table t s n).trans ht)
  rw [hidx] at hrow
  refine ⟨_, hrun, run_inv h hrun, afterTicks_tickPos hp t n, (afterTicks_mode t s n).trans hm, rfl, hidx, hrow,
    afterTicks_trace hi t n, fun k hk => ?_⟩
  subst hk
  have hlast := tickBody_duty (t.rowAt (phaseOf (afterTicks t s k).stepIndex)) (afterTicks t s k)
  have hlevel := tickBody_en (t.rowAt (phaseOf (afterTicks t s k).stepIndex)) (afterTicks t s k)
  rw [← afterTicks_succ] at hlast hlevel
  exact ⟨by rw [hlast, afterTicks_stepIndex hi]; rfl, by rw [hlast, hlevel]⟩

end Machine
end Sys2Proof
end
